-- ==== Sys2Proof/Word.lean ====
section
/-! DEFINITION. The Word of the BM instruction set (00_scope.md R6, R8): 64 bits, two's complement, and the byte of a
program image. -/

namespace Sys2Proof

/-- "a 64-bit signed integer": stack values, operands and `ip` (R6 `WORD_BITS`). Signed readings use `BitVec.toInt`. -/
abbrev Word := BitVec 64

/-- One byte of a program file image (R49). -/
abbrev Byte := BitVec 8

/-- `-2^63`, the least Word (R8). -/
def minWord : Word := BitVec.ofInt 64 (-(2 ^ 63))

/-- `2^63 - 1`, the greatest Word (R8). -/
def maxWord : Word := BitVec.ofInt 64 (2 ^ 63 - 1)

end Sys2Proof
end

