-- ==== Sys2Proof/Config.lean ====
section
/-! DEFINITION. The implementation parameters of 00_scope.md R6, with the spec's default for each, and the one free
value of the model. A machine is built with parameters of its own (`State.resetWith`) and keeps them in its state, so a
claim about a capacity names the parameter, never a number (R7). -/

namespace Sys2Proof

/-- `TAG_BYTES`: "OPEN, one of {4, 8}" (R6, R49). -/
inductive TagBytes where
  | four
  | eight
  deriving DecidableEq, Repr

/-- The number of bytes of the tag field. -/
def TagBytes.count : TagBytes → Nat
  | .four => 4
  | .eight => 8

/-- `BYTE_ORDER`: "OPEN, one of {little, big}" (R6, R50). -/
inductive ByteOrder where
  | little
  | big
  deriving DecidableEq, Repr

/-- The two open parameters of a record's byte image. Every operation on images takes them as an argument, so that a
claim about an image states them (92_eei_decisions.md D2, D3). -/
structure Format where
  tagBytes  : TagBytes
  byteOrder : ByteOrder
  deriving DecidableEq, Repr

/-- `RECORD_BYTES = TAG_BYTES + 8` (R6, R49). -/
def Format.recordBytes (fmt : Format) : Nat := fmt.tagBytes.count + 8

/-- The parameters one machine is built with (R6; 92_eei_decisions.md, open parameters; 93_implementation_defined.md
rows 6, 7 and 18; log entry 3). `WORD_BITS` is 64 and no parameter is left for it. -/
structure Params where
  /-- `STACK_CAPACITY`, a positive integer -/
  stackCapacity   : Nat
  /-- `PROGRAM_CAPACITY`, a positive integer -/
  programCapacity : Nat
  /-- `TAG_BYTES` and `BYTE_ORDER` -/
  format          : Format
  /-- `DEFAULT_FUEL`, a non-negative integer -/
  defaultFuel     : Nat
  deriving DecidableEq, Repr

namespace Config

/-- The default of `STACK_CAPACITY` (R6; unaudited literal, R7; log entry 3). -/
def stackCapacity : Nat := 1024

/-- The default of `PROGRAM_CAPACITY` (R6; unaudited literal, R7; log entry 3). -/
def programCapacity : Nat := 1024

/-- The default of `DEFAULT_FUEL`, the budget of the reference driver (R6, R108; log entry 3). -/
def defaultFuel : Nat := 69

/-- The defaults of the record format: `TAG_BYTES = 8`, little-endian (R6; log entries 1 and 2). -/
def format : Format := ⟨.eight, .little⟩

/-- The machine with every parameter at its default. -/
def params : Params := ⟨stackCapacity, programCapacity, format, defaultFuel⟩

/-- FREE VALUE (log entry 14): the tag of element `i` of a host sequence that has no element `i`, where a LOAD_MEM or
SAVE command's `count` exceeds the sequence's length. The spec does not say what is read there. -/
opaque absentTag : Nat → BitVec 64

/-- FREE VALUE (log entry 14): the operand of such an absent element. -/
opaque absentOperand : Nat → Word

end Config

end Sys2Proof
end

