-- ==== Sys2Proof/Syntax.lean ====
section
/-! DEFINITION. Records and instructions (30_encoding.md R48, R52). -/

namespace Sys2Proof

/-- One program record: a tag and a 64-bit signed operand (R48, R49). The tag is held in 64 bits, the default width;
with `TAG_BYTES = 4` its upper half is zero (log entry 16). A record need not be legal: a program may hold illegal ones (R56). -/
structure Record where
  tag     : BitVec 64
  operand : Word
  deriving DecidableEq, Repr

/-- The twelve opcodes of R52, in tag order. Every instruction has the operand field, whether or not its opcode uses
it ("ignored but still stored", R55), so each constructor keeps it. -/
inductive Instr where
  | nop (operand : Word)
  | push (v : Word)
  | dup (k : Word)
  | plus (operand : Word)
  | minus (operand : Word)
  | mult (operand : Word)
  | div (operand : Word)
  | jmp (t : Word)
  | eq (operand : Word)
  | jmpIf (t : Word)
  | halt (operand : Word)
  | printDebug (operand : Word)
  deriving DecidableEq, Repr

end Sys2Proof
end

