-- ==== Sys2Proof/Decode.lean ====
section
/-! DEFINITION. The decoder and the encoder (30_encoding.md R48–R58): records to instructions, instruction words and
byte images to records, and back. -/

namespace Sys2Proof

/-- Why a record or an image is no instruction. -/
inductive DecodeError where
  /-- the tag is none of 0–11: `Illegal` (R53, R56) -/
  | illegal (tag : BitVec 64)
  /-- fewer bytes than one record: no instruction stands there (R49) -/
  | truncated
  deriving DecidableEq, Repr

/-- R52, R53: the whole tag field selects the opcode; the operand takes no part. -/
def decodeRecord (r : Record) : Except DecodeError Instr :=
  match r.tag.toNat with
  | 0 => .ok (.nop r.operand)
  | 1 => .ok (.push r.operand)
  | 2 => .ok (.dup r.operand)
  | 3 => .ok (.plus r.operand)
  | 4 => .ok (.minus r.operand)
  | 5 => .ok (.mult r.operand)
  | 6 => .ok (.div r.operand)
  | 7 => .ok (.jmp r.operand)
  | 8 => .ok (.eq r.operand)
  | 9 => .ok (.jmpIf r.operand)
  | 10 => .ok (.halt r.operand)
  | 11 => .ok (.printDebug r.operand)
  | _ => .error (.illegal r.tag)

/-- The record of an instruction, by the tag table of R52. -/
def Instr.encode : Instr → Record
  | .nop o => ⟨0#64, o⟩
  | .push v => ⟨1#64, v⟩
  | .dup k => ⟨2#64, k⟩
  | .plus o => ⟨3#64, o⟩
  | .minus o => ⟨4#64, o⟩
  | .mult o => ⟨5#64, o⟩
  | .div o => ⟨6#64, o⟩
  | .jmp t => ⟨7#64, t⟩
  | .eq o => ⟨8#64, o⟩
  | .jmpIf t => ⟨9#64, t⟩
  | .halt o => ⟨10#64, o⟩
  | .printDebug o => ⟨11#64, o⟩

/-- R51: the record in the instruction word `IW = {operand, tag}`, whose tag field has `8 · TAG_BYTES` bits. -/
def Record.ofIW (fmt : Format) (iw : Nat) : Record :=
  ⟨BitVec.ofNat 64 (iw % 2 ^ (8 * fmt.tagBytes.count)), BitVec.ofNat 64 (iw / 2 ^ (8 * fmt.tagBytes.count))⟩

/-- R51: the instruction word of a record. -/
def Record.toIW (fmt : Format) (r : Record) : Nat :=
  r.tag.toNat % 2 ^ (8 * fmt.tagBytes.count) + r.operand.toNat * 2 ^ (8 * fmt.tagBytes.count)

/-- The `n` low bytes of a number, least significant first. -/
def littleBytes : Nat → Nat → List Byte
  | 0, _ => []
  | n + 1, x => BitVec.ofNat 8 x :: littleBytes n (x / 256)

/-- The number whose bytes, least significant first, are these. -/
def ofLittleBytes : List Byte → Nat
  | [] => 0
  | b :: bs => b.toNat + 256 * ofLittleBytes bs

/-- R50: a field's `n` bytes in the order of the file. -/
def fieldBytes (o : ByteOrder) (n x : Nat) : List Byte :=
  match o with
  | .little => littleBytes n x
  | .big => (littleBytes n x).reverse

/-- R50: the number a field's bytes hold. -/
def ofFieldBytes (o : ByteOrder) (bs : List Byte) : Nat :=
  match o with
  | .little => ofLittleBytes bs
  | .big => ofLittleBytes bs.reverse

/-- R49: the byte image of a record: the tag, "immediately followed by" the operand. -/
def Record.bytes (fmt : Format) (r : Record) : List Byte :=
  fieldBytes fmt.byteOrder fmt.tagBytes.count r.tag.toNat ++ fieldBytes fmt.byteOrder 8 r.operand.toNat

/-- R49: the record the first `RECORD_BYTES` bytes hold. No validation (R56). -/
def Record.ofBytes (fmt : Format) (bs : List Byte) : Record :=
  ⟨BitVec.ofNat 64 (ofFieldBytes fmt.byteOrder (bs.take fmt.tagBytes.count)),
   BitVec.ofNat 64 (ofFieldBytes fmt.byteOrder ((bs.drop fmt.tagBytes.count).take 8))⟩

/-- The instruction at the head of a byte string, with the bytes after it. -/
def decodeBytes (fmt : Format) (bs : List Byte) : Except DecodeError (Instr × List Byte) :=
  if bs.length < fmt.recordBytes then .error .truncated
  else
    match decodeRecord (Record.ofBytes fmt bs) with
    | .ok i => .ok (i, bs.drop fmt.recordBytes)
    | .error e => .error e

/-- The byte image of an instruction. -/
def Instr.bytes (fmt : Format) (i : Instr) : List Byte := i.encode.bytes fmt

/-- R64: `n` records laid end to end, read from an image. -/
def recordsOfImage (fmt : Format) : Nat → List Byte → List Record
  | 0, _ => []
  | n + 1, bs => Record.ofBytes fmt bs :: recordsOfImage fmt n (bs.drop fmt.recordBytes)

/-- R64, R67: records laid end to end, with nothing before, between or after them. -/
def imageOfRecords (fmt : Format) : List Record → List Byte
  | [] => []
  | r :: rs => r.bytes fmt ++ imageOfRecords fmt rs

/-- The record of an instruction numbered as spec/opcode_table.json numbers it: the 128-bit word `IW` of
`TAG_BYTES = 8` (R51). Bits at and above `nbits` are 0. -/
def recordOfTableWord (nbits w : Nat) : Record :=
  Record.ofIW ⟨.eight, Config.format.byteOrder⟩ (w % 2 ^ nbits)

/-- The instruction the decoder reads from a table word; none where the tag is illegal. -/
def decodeTableWord (nbits w : Nat) : Option Instr :=
  match decodeRecord (recordOfTableWord nbits w) with
  | .ok i => some i
  | .error _ => none

end Sys2Proof
end

