-- ==== Sys2Proof/Machine/State.lean ====
section
/-! DEFINITION. The state of the core (10_state.md R13), the reasons a step can stop, and the state after power-on
reset (70_reset_and_hazards.md R112). -/

namespace Sys2Proof.Machine

/-- The results of a step other than `REFUSED` and the contents of `err` (60_exceptions.md R90). -/
inductive ErrorKind where
  | ok
  | stackOverflow
  | stackUnderflow
  | illegalInstruction
  | illegalInstAccess
  | illegalOperand
  | divByZero
  deriving DecidableEq, Repr

/-- The states of the run controller (R24). -/
inductive RunState where
  | ready
  | running
  | halted
  | failed
  | budgetExceeded
  deriving DecidableEq, Repr

/-- The result of the last LOAD command (R26). -/
inductive LoadStatus where
  | ok
  | rejected
  | ioError
  deriving DecidableEq, Repr

/-- A storage space indexed by whole slots (20_memory.md R34): (index, contents) pairs in the canonical form
`Memory.wf` states. -/
abbrev Memory (α : Type) := List (Nat × α)

/-- Why a step answers a fault. -/
inductive Fault where
  /-- Raised by `step` (through `terminalStop`) in a state whose `err` is not `OK`: the core takes no step, and "for a
  model, the failed state is a fault" (60_exceptions.md R97; log entry 8). Safe: the core takes no step there either. -/
  | failed (kind : ErrorKind)
  deriving DecidableEq, Repr

/-- Why a step answers a refusal. -/
inductive Refusal where
  /-- An instruction without a meaning, rejected by name in `exec`. No arm uses it. Safe. -/
  | notModelled (mnemonic : String)
  /-- Raised by `step` (through `terminalStop`) while `halted = 1`: "the core refuses rather than executes" (R98; log
  entry 9). It is the successful end of a run. Safe: the core takes no step there either. -/
  | halted
  deriving DecidableEq, Repr

/-- The whole state of the core, with the parameters the machine was built with. -/
structure State where
  /-- the parameters of R6, fixed for the machine: set when it is created and written by no step and no command (the
  model's own field, log entry 3) -/
  params     : Params
  /-- `S`, all slots, those at and above `sp` too (R15, R17) -/
  stack      : Memory Word
  /-- `sp`, the number of live stack entries (R15) -/
  sp         : Nat
  /-- `ip`, the index of the program slot to execute (R18) -/
  ip         : Word
  /-- `P`, all slots, those at and above `PLEN` too (R21) -/
  prog       : Memory Record
  /-- `PLEN`, the program length (R21) -/
  plen       : Nat
  /-- `halted` (R22) -/
  halted     : Bool
  /-- `err` (R23) -/
  err        : ErrorKind
  /-- `run_state` (R24) -/
  runState   : RunState
  /-- `run_steps` (R25) -/
  runSteps   : Nat
  /-- `load_status` (R26) -/
  loadStatus : LoadStatus
  /-- the diagnostic output channel, oldest Word first (R33, R89) -/
  debugOut   : List Word
  deriving DecidableEq, Repr

/-- What a stack slot that nothing has written reads as (R112 "unspecified; unobservable"; DESIGN CHOICE, log entry 4). -/
def State.unwrittenWord : Word := 0#64

/-- What a program slot that nothing has written reads as (R112 "unspecified; unobservable"; DESIGN CHOICE, log entry 5). -/
def State.unwrittenRecord : Record := ⟨0#64, 0#64⟩

/-- Power-on reset of the machine with these parameters: "a Machine is created empty" (R112). -/
def State.resetWith (p : Params) : State where
  params := p
  stack := []
  sp := 0
  ip := 0#64
  prog := []
  plen := 0
  halted := false
  err := .ok
  runState := .ready
  runSteps := 0
  loadStatus := .ok
  debugOut := []

/-- Power-on reset of the machine with the spec's default parameters (R6, R112). -/
def State.reset : State := State.resetWith Config.params

/-- What one step answers. -/
abbrev Outcome := Host.Outcome State Fault Refusal

end Sys2Proof.Machine
end

