-- ==== Sys2Proof/Machine/Ops.lean ====
section
/-! DEFINITION. The named operations over the storage spaces and the registers (00_scope.md R10), error entry
(60_exceptions.md R95) and the one way out of it (R99, R113). -/

namespace Sys2Proof.Machine

/-- The contents of slot `i`; `d` where the slot is not listed. -/
def Memory.read {α : Type} (d : α) : Memory α → Nat → α
  | [], _ => d
  | (j, v) :: rest, i => if i = j then v else Memory.read d rest i

/-- The memory without an entry for slot `i`. -/
def Memory.erase {α : Type} : Memory α → Nat → Memory α
  | [], _ => []
  | (j, v) :: rest, i => if i = j then Memory.erase rest i else (j, v) :: Memory.erase rest i

/-- An entry put before the first one with a greater index. -/
def Memory.insert {α : Type} : Memory α → Nat → α → Memory α
  | [], i, v => [(i, v)]
  | (j, w) :: rest, i, v => if i < j then (i, v) :: (j, w) :: rest else (j, w) :: Memory.insert rest i v

/-- Slot `i` takes the contents `v`; writing what an unlisted slot reads as removes the entry. -/
def Memory.write {α : Type} [DecidableEq α] (d : α) (m : Memory α) (i : Nat) (v : α) : Memory α :=
  if v = d then m.erase i else Memory.insert (m.erase i) i v

/-- Slots `i`, `i + 1`, … take the contents of a list. -/
def Memory.writeList {α : Type} [DecidableEq α] (d : α) : Memory α → Nat → List α → Memory α
  | m, _, [] => m
  | m, i, v :: vs => Memory.writeList d (m.write d i v) (i + 1) vs

/-- The canonical form: indexes strictly rising and no entry equal to what an unlisted slot reads as. -/
def Memory.wf {α : Type} [DecidableEq α] (d : α) : Memory α → Bool
  | [] => true
  | (i, v) :: rest => decide (v ≠ d) && rest.all (fun c => decide (i < c.1)) && Memory.wf d rest

/-- Every listed slot exists: its index is below the space's capacity. -/
def Memory.below {α : Type} (n : Nat) (m : Memory α) : Bool := m.all (fun c => decide (c.1 < n))

/-- `S[i]`. -/
def State.slot (s : State) (i : Nat) : Word := s.stack.read State.unwrittenWord i

/-- `MemRead(P, i)`. -/
def State.record (s : State) (i : Nat) : Record := s.prog.read State.unwrittenRecord i

/-- `S[i] <- v`. -/
def State.setSlot (i : Nat) (v : Word) (s : State) : State :=
  { s with stack := s.stack.write State.unwrittenWord i v }

/-- `sp <- n`. -/
def State.setSp (n : Nat) (s : State) : State := { s with sp := n }

/-- `push(v)`: `S[sp] <- v; sp <- sp + 1` (R10). -/
def State.push (v : Word) (s : State) : State := (s.setSlot s.sp v).setSp (s.sp + 1)

/-- `pop()`: `sp <- sp - 1; return S[sp]` (R10). The slot keeps what it held (R17). -/
def State.pop (s : State) : Word × State := (s.slot (s.sp - 1), s.setSp (s.sp - 1))

/-- `ip <- target` (R10). -/
def State.setIp (t : Word) (s : State) : State := { s with ip := t }

/-- `ip <- ip + 1` (R19). -/
def State.advance (s : State) : State := s.setIp (s.ip + 1#64)

/-- `emit DebugOut(v)` (R10, R88). -/
def State.emit (v : Word) (s : State) : State := { s with debugOut := s.debugOut ++ [v] }

/-- `err <- e`. -/
def State.setErr (e : ErrorKind) (s : State) : State := { s with err := e }

/-- Error entry, `raise E()` (R10, R95): `err <- E` and nothing else changes. No vector, no saved register, no mode. -/
def raise (e : ErrorKind) (s : State) : Outcome := .next (s.setErr e)

/-- There is no return from an error but the RESET command (R99): it clears the execution state and keeps `S`, `P`,
`PLEN` and `load_status` (R113), as it does the machine's parameters. The output channel is not among what R113 clears (log entry 11). -/
def State.clearExecution (s : State) : State :=
  { s with sp := 0, ip := 0#64, halted := false, err := .ok, runState := .ready, runSteps := 0 }

/-- The program becomes the records of a list; slots above it keep what they held (R65, R66). -/
def State.storeProgram (rs : List Record) (s : State) : State :=
  { s with prog := s.prog.writeList State.unwrittenRecord 0 rs, plen := rs.length }

/-- `load_status <- l`. -/
def State.setLoadStatus (l : LoadStatus) (s : State) : State := { s with loadStatus := l }

end Sys2Proof.Machine
end

