-- ==== Sys2Proof/Machine/Cycle.lean ====
section
/-! DEFINITION. The parts of the step cycle before the dispatch (30_encoding.md R59): the terminal test, the bounds
check and the fetch, the decode; and placing an instruction where the next fetch reads it. -/

namespace Sys2Proof.Machine

/-- What a step answers in a terminal state (60_exceptions.md R97, R98), `none` in any other. `halted` is tested first,
as in the run controller (R101; log entry 10). -/
def terminalStop (s : State) : Option Outcome :=
  if s.halted then some (.refused .halted)
  else if s.err ≠ .ok then some (.fault (.failed s.err))
  else none

/-- The bounds check: `0 <= ip < PLEN`, on integers (R59). -/
def State.ipInBounds (s : State) : Bool := decide (0 ≤ s.ip.toInt) && decide (s.ip.toInt < s.plen)

/-- The record `ip` names (R59). -/
def State.fetched (s : State) : Record := s.record s.ip.toInt.toNat

/-- Bounds check, fetch, decode, in that order (R59, R92). -/
def fetchDecode (s : State) : Except ErrorKind Instr :=
  if s.ipInBounds then
    match decodeRecord s.fetched with
    | .ok i => .ok i
    | .error _ => .error .illegalInstruction
  else .error .illegalInstAccess

/-- The slot the next fetch can read: the one `ip` names where the store has it, else slot 0. -/
def State.nextSlot (s : State) : Nat :=
  if 0 ≤ s.ip.toInt ∧ s.ip.toInt < s.params.programCapacity then s.ip.toInt.toNat else 0

/-- The state with a record placed where the next step fetches: in the store, within the program's length, the core
not terminal (log entry 15). It stands for a load from outside. -/
def State.placeNext (r : Record) (s : State) : State :=
  { s with
    prog := s.prog.write State.unwrittenRecord s.nextSlot r
    plen := max s.plen (s.nextSlot + 1)
    ip := BitVec.ofNat 64 s.nextSlot
    halted := false
    err := .ok }

end Sys2Proof.Machine
end

