-- ==== Sys2Proof/Machine/Flags.lean ====
section
/-! DEFINITION. Flags and status registers: `halted`, the only flag (10_state.md R22, R27), the tests and results that
stand where other machines have condition codes, and the numeric codes of the status registers. -/

namespace Sys2Proof.Machine

/-- `halted <- 1` (R85). -/
def State.setHalted (s : State) : State := { s with halted := true }

/-- JMP_IF's test: any non-zero Word takes the branch (43_control.md R84). -/
def branchTaken (c : Word) : Bool := c != 0#64

/-- EQ's result, exactly 1 or 0 (42_alu.md R80). -/
def equalityWord (a b : Word) : Word := if a = b then 1#64 else 0#64

/-- The code of an error kind in `err` (60_exceptions.md R90). Code 7 is never written (R23). -/
def ErrorKind.code : ErrorKind → BitVec 3
  | .ok => 0
  | .stackOverflow => 1
  | .stackUnderflow => 2
  | .illegalInstruction => 3
  | .illegalInstAccess => 4
  | .illegalOperand => 5
  | .divByZero => 6

/-- The code of `run_state` (10_state.md R24). -/
def RunState.code : RunState → BitVec 3
  | .ready => 0
  | .running => 1
  | .halted => 2
  | .failed => 3
  | .budgetExceeded => 4

/-- The code of `load_status` (10_state.md R26). -/
def LoadStatus.code : LoadStatus → BitVec 2
  | .ok => 0
  | .rejected => 1
  | .ioError => 2

end Sys2Proof.Machine
end

