-- ==== Sys2Proof/Machine/Operands.lean ====
section
/-! DEFINITION. Operand forms: the record's operand field (30_encoding.md R54) and the stack entries an instruction
reads (42_alu.md R75, 10_state.md R16). -/

namespace Sys2Proof.Machine

/-- PUSH's literal: the field itself (R54). -/
def literalOperand (operand : Word) : Word := operand

/-- DUP's depth: the field read as a signed integer; the checks on it are on mathematical integers (R54, R71). -/
def depthOperand (operand : Word) : Int := operand.toInt

/-- The absolute target of JMP and JMP_IF: the field itself, no offset from `ip` (R54, R82). -/
def targetOperand (operand : Word) : Word := operand

/-- The top of the stack, `S[sp-1]` (R15). -/
def State.top (s : State) : Word := s.slot (s.sp - 1)

/-- The entry at depth `k` from the top, `S[sp-1-k]` (R16). -/
def State.atDepth (s : State) (k : Nat) : Word := s.slot (s.sp - 1 - k)

end Sys2Proof.Machine
end

