-- ==== Sys2Proof/Machine/Alu.lean ====
section
/-! DEFINITION. PLUS, MINUS, MULT, DIV and EQ (42_alu.md). -/

namespace Sys2Proof.Machine

/-- `wrap64(n)`: the Word congruent to `n` modulo `2^64` (00_scope.md R8, R73). -/
def wrap64 (n : Int) : Word := BitVec.ofInt 64 n

/-- `tdiv(a, b)`: integer division truncating toward zero (R74). -/
def tdiv (a b : Int) : Int := a.tdiv b

/-- "pop `b`, pop `a`, push" the result (R75), with the length check every binary instruction makes. -/
def binary (f : Word → Word → Word) (s : State) : Outcome :=
  if s.sp < 2 then raise .stackUnderflow s
  else
    let (b, s₁) := s.pop
    let (a, s₂) := s₁.pop
    .next (s₂.push (f a b)).advance

/-- PLUS (R76). -/
def execPlus (_operand : Word) (s : State) : Outcome := binary (fun a b => wrap64 (a.toInt + b.toInt)) s

/-- MINUS (R77). -/
def execMinus (_operand : Word) (s : State) : Outcome := binary (fun a b => wrap64 (a.toInt - b.toInt)) s

/-- MULT (R78). -/
def execMult (_operand : Word) (s : State) : Outcome := binary (fun a b => wrap64 (a.toInt * b.toInt)) s

/-- DIV (R79): the length, then the divisor, which is the current top. -/
def execDiv (_operand : Word) (s : State) : Outcome :=
  if s.sp < 2 then raise .stackUnderflow s
  else if s.top = 0#64 then raise .divByZero s
  else binary (fun a b => wrap64 (tdiv a.toInt b.toInt)) s

/-- EQ (R80). -/
def execEq (_operand : Word) (s : State) : Outcome := binary equalityWord s

end Sys2Proof.Machine
end

