-- ==== Sys2Proof/Machine/Control.lean ====
section
/-! DEFINITION. JMP, JMP_IF and HALT (43_control.md). Targets are checked lazily, by the next step (R86). -/

namespace Sys2Proof.Machine

/-- JMP(t) (R83). -/
def execJmp (t : Word) (s : State) : Outcome := .next (s.setIp (targetOperand t))

/-- JMP_IF(t) (R84): one entry is needed; it is consumed whether or not the branch is taken. -/
def execJmpIf (t : Word) (s : State) : Outcome :=
  if s.sp < 1 then raise .stackUnderflow s
  else
    let (c, s₁) := s.pop
    if branchTaken c then .next (s₁.setIp (targetOperand t)) else .next s₁.advance

/-- HALT (R85): `ip` is not advanced. -/
def execHalt (_operand : Word) (s : State) : Outcome := .next s.setHalted

end Sys2Proof.Machine
end

