-- ==== Sys2Proof/Machine/Debug.lean ====
section
/-! DEFINITION. PRINT_DEBUG (44_debug.md). -/

namespace Sys2Proof.Machine

/-- PRINT_DEBUG (R88). -/
def execPrintDebug (_operand : Word) (s : State) : Outcome :=
  if s.sp < 1 then raise .stackUnderflow s
  else
    let (v, s₁) := s.pop
    .next (s₁.emit v).advance

end Sys2Proof.Machine
end

