-- ==== Sys2Proof/Machine/Stack.lean ====
section
/-! DEFINITION. NOP, PUSH and DUP (41_stack_and_nop.md). -/

namespace Sys2Proof.Machine

/-- NOP (R69). -/
def execNop (_operand : Word) (s : State) : Outcome := .next s.advance

/-- PUSH(v) (R70). -/
def execPush (v : Word) (s : State) : Outcome :=
  if s.sp ≥ s.params.stackCapacity then raise .stackOverflow s
  else .next (s.push (literalOperand v)).advance

/-- DUP(k) (R71): the sign of `k`, then underflow, then overflow. -/
def execDup (k : Word) (s : State) : Outcome :=
  if depthOperand k < 0 then raise .illegalOperand s
  else if (s.sp : Int) ≤ depthOperand k then raise .stackUnderflow s
  else if s.sp ≥ s.params.stackCapacity then raise .stackOverflow s
  else .next (s.push (s.atDepth (depthOperand k).toNat)).advance

end Sys2Proof.Machine
end

