-- ==== Sys2Proof/Machine/Dispatch.lean ====
section
/-! DEFINITION. The dispatch of the step cycle (30_encoding.md R59): one meaning per instruction. -/

namespace Sys2Proof.Machine

-- the opcode's rule of the step cycle; the terminal, bounds and decode checks stand before it, in Step.lean
def exec (i : Instr) (s : State) : Host.Outcome State Fault Refusal :=
  match i with
  | .nop operand => Sys2Proof.Machine.execNop operand s
  | .push v => Sys2Proof.Machine.execPush v s
  | .dup k => Sys2Proof.Machine.execDup k s
  | .plus operand => Sys2Proof.Machine.execPlus operand s
  | .minus operand => Sys2Proof.Machine.execMinus operand s
  | .mult operand => Sys2Proof.Machine.execMult operand s
  | .div operand => Sys2Proof.Machine.execDiv operand s
  | .jmp t => Sys2Proof.Machine.execJmp t s
  | .eq operand => Sys2Proof.Machine.execEq operand s
  | .jmpIf t => Sys2Proof.Machine.execJmpIf t s
  | .halt operand => Sys2Proof.Machine.execHalt operand s
  | .printDebug operand => Sys2Proof.Machine.execPrintDebug operand s

end Sys2Proof.Machine
end

