-- ==== Sys2Proof/Machine/Step.lean ====
section
/-! DEFINITION. One step of the core (30_encoding.md R59). -/

namespace Sys2Proof.Machine

/-- The single-step operation (R59). An error before the dispatch is taken like any other (R95). -/
def step (s : State) : Host.Outcome State Fault Refusal :=
  match terminalStop s with
  | some stop => stop
  | none =>
    match fetchDecode s with
    | .ok i => exec i s
    | .error e => raise e s

/-- The state whose next step fetches and runs the instruction of a table word (log entry 15). -/
def State.withFetchWord (s : State) (nbits w : Nat) : State := s.placeNext (recordOfTableWord nbits w)

end Sys2Proof.Machine
end

