-- ==== Sys2Proof/Machine/Commands.lean ====
section
/-! DEFINITION. The host's commands (10_state.md R30): RESET, LOAD_MEM, LOAD_FILE, SAVE, STEP, RUN and OBSERVE, each a
function on the state that completes before the next command is accepted (70_reset_and_hazards.md R121). -/

namespace Sys2Proof.Machine

/-- The outcome of a RUN (60_exceptions.md R102). -/
inductive RunOutcome where
  | halted
  | failed (kind : ErrorKind)
  | budgetExceeded
  deriving DecidableEq, Repr

/-- What OBSERVE returns (10_state.md R31), with the output channel (60_exceptions.md R111; log entry 12). -/
structure Observation where
  ip         : Word
  sp         : Nat
  /-- `S[0..sp-1]`, bottom first -/
  stack      : List Word
  plen       : Nat
  /-- `P[0..PLEN-1]` -/
  program    : List Record
  halted     : Bool
  err        : ErrorKind
  runState   : RunState
  runSteps   : Nat
  loadStatus : LoadStatus
  output     : List Word
  deriving DecidableEq, Repr

/-- The commands of R30 and their arguments. -/
inductive Command where
  | reset
  | loadMem (instrs : List Record) (count : Nat)
  | loadFile (bytes : List Byte) (ioOk : Bool)
  | save (instrs : List Record) (count : Nat)
  | step
  | run (budget : Nat)
  | observe
  deriving DecidableEq, Repr

/-- What a command returns to the host. -/
inductive Response where
  /-- RESET, and a LOAD (its result is `load_status`, R91) -/
  | done
  /-- SAVE: the file image (R67) -/
  | image (bytes : List Byte)
  /-- STEP: `OK` or an error kind (R91) -/
  | stepped (result : ErrorKind)
  /-- STEP in a terminal state (R59) -/
  | refused
  /-- RUN (R101) -/
  | ran (outcome : RunOutcome)
  /-- OBSERVE (R31) -/
  | observed (o : Observation)
  deriving DecidableEq, Repr

/-- The first `count` elements of a host sequence; an element the sequence does not have is a free value (log entry 14). -/
def firstRecords (instrs : List Record) (count : Nat) : List Record :=
  (List.range count).map fun i => instrs.getD i ⟨Config.absentTag i, Config.absentOperand i⟩

/-- LOAD_MEM (30_encoding.md R66): "strictly less, as in source". -/
def loadMem (instrs : List Record) (count : Nat) (s : State) : State :=
  if count ≥ s.params.programCapacity then s.setLoadStatus .rejected
  else (s.storeProgram (firstRecords instrs count)).setLoadStatus .ok

/-- LOAD_FILE (30_encoding.md R65), for any `TAG_BYTES` and `BYTE_ORDER`. -/
def loadFileAs (fmt : Format) (bytes : List Byte) (ioOk : Bool) (s : State) : State :=
  if ioOk = false then s.setLoadStatus .ioError
  else if bytes.length % fmt.recordBytes ≠ 0 then s.setLoadStatus .rejected
  else if bytes.length / fmt.recordBytes > s.params.programCapacity then s.setLoadStatus .rejected
  else (s.storeProgram (recordsOfImage fmt (bytes.length / fmt.recordBytes) bytes)).setLoadStatus .ok

/-- LOAD_FILE with the machine's own format. -/
def loadFile (bytes : List Byte) (ioOk : Bool) (s : State) : State := loadFileAs s.params.format bytes ioOk s

/-- SAVE (30_encoding.md R67): the image of its argument, not of the program store (D32). It changes no state. -/
def saveAs (fmt : Format) (instrs : List Record) (count : Nat) : List Byte :=
  imageOfRecords fmt (firstRecords instrs count)

/-- SAVE with the machine's own format. -/
def save (instrs : List Record) (count : Nat) (s : State) : List Byte := saveAs s.params.format instrs count

/-- OBSERVE (10_state.md R31). -/
def observe (s : State) : Observation where
  ip := s.ip
  sp := s.sp
  stack := (List.range s.sp).map s.slot
  plen := s.plen
  program := (List.range s.plen).map s.record
  halted := s.halted
  err := s.err
  runState := s.runState
  runSteps := s.runSteps
  loadStatus := s.loadStatus
  output := s.debugOut

/-- STEP (R59): the step's result, which is what `err` then holds (R91), or `REFUSED` with no state change (R97, R98). -/
def stepCommand (s : State) : Response × State :=
  match step s with
  | .next t => (.stepped t.err, t)
  | .fault _ => (.refused, s)
  | .refused _ => (.refused, s)

/-- The state after a STEP. -/
def stepState (s : State) : State := (stepCommand s).2

/-- The run controller's two tests on the core, in order (R101): `none` where the core may step. -/
def runVerdict (s : State) : Option RunOutcome :=
  if s.halted then some .halted
  else if s.err ≠ .ok then some (.failed s.err)
  else none

/-- The controller state an outcome leaves (R102). -/
def RunOutcome.runState : RunOutcome → RunState
  | .halted => .halted
  | .failed _ => .failed
  | .budgetExceeded => .budgetExceeded

/-- `run_state <- r`. -/
def State.setRunState (r : RunState) (s : State) : State := { s with runState := r }

/-- `run_steps <- run_steps + 1` (R101). -/
def State.countStep (s : State) : State := { s with runSteps := s.runSteps + 1 }

/-- The loop of R101; its number is the budget less `run_steps`. -/
def runLoop : Nat → State → RunOutcome × State
  | 0, s =>
    let o := (runVerdict s).getD .budgetExceeded
    (o, s.setRunState o.runState)
  | left + 1, s =>
    match runVerdict s with
    | some o => (o, s.setRunState o.runState)
    | none => runLoop left (stepState s).countStep

/-- The start of a RUN (R101). -/
def State.beginRun (s : State) : State := { s with runState := .running, runSteps := 0 }

/-- RUN(budget) (R101). -/
def run (budget : Nat) (s : State) : RunOutcome × State := runLoop budget s.beginRun

/-- RUN with the budget the reference driver gives it, `DEFAULT_FUEL` (R108). -/
def runDefault (s : State) : RunOutcome × State := run s.params.defaultFuel s

/-- One host command (R30). -/
def command (c : Command) (s : State) : Response × State :=
  match c with
  | .reset => (.done, s.clearExecution)
  | .loadMem instrs count => (.done, loadMem instrs count s)
  | .loadFile bytes ioOk => (.done, loadFile bytes ioOk s)
  | .save instrs count => (.image (save instrs count s), s)
  | .step => stepCommand s
  | .run budget => (.ran (run budget s).1, (run budget s).2)
  | .observe => (.observed (observe s), s)

/-- A host's commands, one after the other (R121). -/
def commands : List Command → State → List Response × State
  | [], s => ([], s)
  | c :: cs, s =>
    let (r, t) := command c s
    let (rs, u) := commands cs t
    (r :: rs, u)

end Sys2Proof.Machine
end

