-- ==== Sys2Proof/WellFormed.lean ====
section
/-! DEFINITION. Well-formedness of the syntax. Every operand value is legal for every opcode (30_encoding.md R57), so
every `Instr` is well formed; what can be ill formed is a record (an illegal tag, or a tag too wide for `TAG_BYTES`), a
program (too long), a file image (a partial record) or a machine's parameters (a capacity of 0). -/

namespace Sys2Proof

/-- Every instruction is well formed: "every operand value is legal for every opcode at decode time" (R57). -/
def Instr.wellFormed : Instr → Bool
  | .nop _ | .push _ | .dup _ | .plus _ | .minus _ | .mult _ => true
  | .div _ | .jmp _ | .eq _ | .jmpIf _ | .halt _ | .printDebug _ => true

/-- The convention of R55 and R62 ("zero by convention"): the operand of an opcode that ignores it is 0. An
instruction that breaks the convention is still legal. -/
def Instr.conventional : Instr → Bool
  | .push _ | .dup _ | .jmp _ | .jmpIf _ => true
  | .nop o | .plus o | .minus o | .mult o | .div o | .eq o | .halt o | .printDebug o => o == 0#64

/-- The tag is one of the enumeration (R53). -/
def Record.legal (r : Record) : Bool := r.tag.toNat < 12

/-- The tag fits the tag field of `8 · TAG_BYTES` bits (R49). -/
def Record.fits (fmt : Format) (r : Record) : Bool := r.tag.toNat < 2 ^ (8 * fmt.tagBytes.count)

/-- Parameters a machine can be built with: both capacities are positive integers (92_eei_decisions.md, open
parameters). -/
def Params.wellFormed (p : Params) : Bool := 0 < p.stackCapacity && 0 < p.programCapacity

/-- A program the store can hold (10_state.md R21). -/
def programFits (p : Params) (rs : List Record) : Bool := rs.length ≤ p.programCapacity

/-- A file image LOAD_FILE accepts: whole records, at most `PROGRAM_CAPACITY` of them (R65). -/
def imageFits (p : Params) (bytes : List Byte) : Bool :=
  bytes.length % p.format.recordBytes = 0 && bytes.length / p.format.recordBytes ≤ p.programCapacity

end Sys2Proof
end

