-- ==== Sys2Proof/Safety.lean ====
section
/-! DEFINITION. The words the claims are stated in: terminal states, the invariant of 10_state.md R28, what an
instruction leaves unchanged, and when two states look alike to a program. -/

namespace Sys2Proof.Machine

/-- "a state from which the core takes no further step until reset" (00_scope.md R12; 60_exceptions.md R97, R98). -/
abbrev State.Terminal (s : State) : Prop := s.halted = true ∨ s.err ≠ .ok

/-- "the only successful end of a run" (R98). -/
abbrev State.Succeeded (s : State) : Prop := s.halted = true ∧ s.err = .ok

/-- The invariant "always true between steps" (10_state.md R28), with the canonical form of the two storage spaces. -/
structure State.Inv (s : State) : Prop where
  params_wf   : s.params.wellFormed = true
  sp_le       : s.sp ≤ s.params.stackCapacity
  plen_le     : s.plen ≤ s.params.programCapacity
  halted_ok   : s.halted = true → s.err = .ok
  stack_wf    : s.stack.wf State.unwrittenWord = true
  stack_below : s.stack.below s.params.stackCapacity = true
  prog_wf     : s.prog.wf State.unwrittenRecord = true
  prog_below  : s.prog.below s.params.programCapacity = true

/-- The core has not halted and no slot of the program holds a HALT record (10: R52). No step leaves such states
(60_exceptions.md R103). -/
structure State.WithoutHalt (s : State) : Prop where
  halted : s.halted = false
  text   : ∀ i, i < s.plen → (s.record i).tag ≠ 10#64

/-- What no instruction writes: the program store, the host's registers (10_state.md R21, R32) and the parameters. -/
structure SameHostState (s t : State) : Prop where
  params     : t.params = s.params
  prog       : t.prog = s.prog
  plen       : t.plen = s.plen
  runState   : t.runState = s.runState
  runSteps   : t.runSteps = s.runSteps
  loadStatus : t.loadStatus = s.loadStatus

/-- Only stack slots, `sp` and `ip` may differ. -/
structure OnlyStackAndIp (s t : State) : Prop extends SameHostState s t where
  halted   : t.halted = s.halted
  err      : t.err = s.err
  debugOut : t.debugOut = s.debugOut

/-- Only slot `i` of the stack may differ in its contents. -/
abbrev SlotsBut (i : Nat) (s t : State) : Prop := ∀ j, j ≠ i → t.slot j = s.slot j

/-- No slot of the stack changes its contents. -/
abbrev SameSlots (s t : State) : Prop := ∀ j, t.slot j = s.slot j

/-- The effect of a binary instruction (42_alu.md R75): `f a b` stands in `S[sp-2]`, which is then the top; no other
slot changes; `ip` moves on. -/
structure BinaryEffect (f : Word → Word → Word) (s t : State) : Prop extends OnlyStackAndIp s t where
  sp     : t.sp = s.sp - 1
  result : t.slot (s.sp - 2) = f (s.slot (s.sp - 2)) (s.slot (s.sp - 1))
  others : SlotsBut (s.sp - 2) s t
  ip     : t.ip = s.ip + 1#64

/-- `sp` needed by each opcode, on a machine with this `STACK_CAPACITY` (41_stack_and_nop.md R72). -/
def spReady (capacity : Nat) : Instr → Nat → Prop
  | .nop _, _ | .jmp _, _ | .halt _, _ => True
  | .push _, sp => sp < capacity
  | .dup k, sp => 0 ≤ k.toInt ∧ k.toInt < sp ∧ sp < capacity
  | .plus _, sp | .minus _, sp | .mult _, sp | .div _, sp | .eq _, sp => 2 ≤ sp
  | .jmpIf _, sp | .printDebug _, sp => 1 ≤ sp

/-- `sp` after each successful opcode (41_stack_and_nop.md R72). -/
def spAfter : Instr → Nat → Nat
  | .nop _, sp | .jmp _, sp | .halt _, sp => sp
  | .push _, sp | .dup _, sp => sp + 1
  | .plus _, sp | .minus _, sp | .mult _, sp | .div _, sp | .eq _, sp => sp - 1
  | .jmpIf _, sp | .printDebug _, sp => sp - 1

/-- Two states of machines with the same parameters and with the same `ip`, `sp`, live stack, program, `halted` and
`err` (30_encoding.md R61). They may differ in dead slots, in the output channel and in the host's registers. -/
structure State.Agree (s u : State) : Prop where
  params : s.params = u.params
  ip     : s.ip = u.ip
  sp     : s.sp = u.sp
  plen   : s.plen = u.plen
  halted : s.halted = u.halted
  err    : s.err = u.err
  live   : ∀ i, i < s.sp → s.slot i = u.slot i
  text   : ∀ i, i < s.plen → s.record i = u.record i

end Sys2Proof.Machine
end

