-- ==== Sys2Proof/Certificates/Slice0/Obligations.lean ====
section
/-! DEFINITION. The statements for the provers. Each docstring names the rule of spec/ it formalises. -/

open Sys2Proof Sys2Proof.Machine

/-- R112: what power-on reset leaves, whatever parameters the machine is built with. R112 gives `S[*]` and `P[*]` no
value, and none is stated here. With `ip = 0` the first fetch after a load reads slot 0. -/
def Obligations.PowerOnResetValues : Prop :=
  ∀ p : Params,
    (State.resetWith p).sp = 0 ∧ (State.resetWith p).ip = 0#64 ∧ (State.resetWith p).plen = 0 ∧
    (State.resetWith p).halted = false ∧ (State.resetWith p).err = .ok ∧ (State.resetWith p).runState = .ready ∧
    (State.resetWith p).runSteps = 0 ∧ (State.resetWith p).loadStatus = .ok ∧ (State.resetWith p).debugOut = [] ∧
    (observe (State.resetWith p)).stack = [] ∧ (observe (State.resetWith p)).program = [] ∧
    ∀ bytes ioOk, (command (.loadFile bytes ioOk) (State.resetWith p)).2.fetched =
      (command (.loadFile bytes ioOk) (State.resetWith p)).2.record 0

/-- R113: the RESET command clears the execution state and keeps the program, its length and `load_status`. -/
def Obligations.ResetCommandClearsExecution : Prop :=
  ∀ s : State, ∃ t, command .reset s = (.done, t) ∧
    t.sp = 0 ∧ t.ip = 0#64 ∧ t.halted = false ∧ t.err = .ok ∧ t.runState = .ready ∧ t.runSteps = 0 ∧
    (∀ i, t.record i = s.record i) ∧ t.plen = s.plen ∧ t.loadStatus = s.loadStatus

/-- 70_reset_and_hazards.md §2: RESET and LOAD "may be done in either order", for each of the two LOAD commands. -/
def Obligations.ResetAndLoadCommute : Prop :=
  ∀ s : State,
    (∀ instrs count, (command .reset (command (.loadMem instrs count) s).2).2 =
      (command (.loadMem instrs count) (command .reset s).2).2) ∧
    (∀ bytes ioOk, (command .reset (command (.loadFile bytes ioOk) s).2).2 =
      (command (.loadFile bytes ioOk) (command .reset s).2).2)

/-- 10_state.md §5 (invariants) at power-on reset, for all positive capacities. The contents of unwritten slots it
speaks of are the model's choice (log entries 4 and 5). -/
def Obligations.PowerOnMeetsInvariant : Prop :=
  ∀ p : Params, p.wellFormed = true → (State.resetWith p).Inv ∧ (State.resetWith p).WithoutHalt

/-- 10_state.md §5: the invariants are "always true between steps", with the canonical form of both storage spaces. -/
def Obligations.StepKeepsInvariant : Prop :=
  ∀ s t : State, s.Inv → step s = .next t → t.Inv

/-- 10_state.md §5: no host command breaks the invariants either, whatever its arguments. -/
def Obligations.CommandsKeepInvariant : Prop :=
  ∀ (c : Command) (s : State), s.Inv → (command c s).2.Inv

/-- R69, R83, R85: NOP, JMP and HALT, for every operand and every state: their encoding, and everything they write.
After HALT the core takes no step. -/
def Obligations.NopJmpHaltEffects : Prop :=
  ∀ (o : Word) (s : State),
    ((Instr.nop o).encode = ⟨0#64, o⟩ ∧ exec (.nop o) s = .next { s with ip := s.ip + 1#64 }) ∧
    ((Instr.jmp o).encode = ⟨7#64, o⟩ ∧ exec (.jmp o) s = .next { s with ip := o }) ∧
    ((Instr.halt o).encode = ⟨10#64, o⟩ ∧ exec (.halt o) s = .next { s with halted := true } ∧
      command .step { s with halted := true } = (.refused, { s with halted := true }))

/-- R70: PUSH(v), on a stack with room and on a full one. -/
def Obligations.PushEffect : Prop :=
  ∀ (v : Word) (s : State), (Instr.push v).encode = ⟨1#64, v⟩ ∧
    (s.sp < s.params.stackCapacity → ∃ t, exec (.push v) s = .next t ∧ OnlyStackAndIp s t ∧
      t.sp = s.sp + 1 ∧ t.slot s.sp = v ∧ SlotsBut s.sp s t ∧ t.ip = s.ip + 1#64) ∧
    (s.sp ≥ s.params.stackCapacity → exec (.push v) s = .next { s with err := .stackOverflow })

/-- R71: DUP(k), its three checks in order and its effect. Depths and lengths are compared as integers. The order of
underflow and overflow is the spec's decision D8. -/
def Obligations.DupEffect : Prop :=
  ∀ (k : Word) (s : State), (Instr.dup k).encode = ⟨2#64, k⟩ ∧
    (k.toInt < 0 → exec (.dup k) s = .next { s with err := .illegalOperand }) ∧
    (0 ≤ k.toInt → (s.sp : Int) ≤ k.toInt → exec (.dup k) s = .next { s with err := .stackUnderflow }) ∧
    (0 ≤ k.toInt → k.toInt < s.sp → s.sp ≥ s.params.stackCapacity →
      exec (.dup k) s = .next { s with err := .stackOverflow }) ∧
    (0 ≤ k.toInt → k.toInt < s.sp → s.sp < s.params.stackCapacity → ∃ t, exec (.dup k) s = .next t ∧
      OnlyStackAndIp s t ∧ t.sp = s.sp + 1 ∧ t.slot s.sp = s.slot (s.sp - 1 - k.toNat) ∧ SlotsBut s.sp s t ∧
      t.ip = s.ip + 1#64)

/-- R76, R77, R78: PLUS, MINUS and MULT with any record operand: the exact result of `a` (beneath) and `b` (top),
wrapped, stands where `a` stood; with fewer than two entries, STACK_UNDERFLOW. -/
def Obligations.PlusMinusMultEffects : Prop :=
  ∀ (o : Word) (s : State),
    (Instr.plus o).encode = ⟨3#64, o⟩ ∧ (Instr.minus o).encode = ⟨4#64, o⟩ ∧ (Instr.mult o).encode = ⟨5#64, o⟩ ∧
    (s.sp < 2 → exec (.plus o) s = .next { s with err := .stackUnderflow } ∧
      exec (.minus o) s = .next { s with err := .stackUnderflow } ∧
      exec (.mult o) s = .next { s with err := .stackUnderflow }) ∧
    (2 ≤ s.sp →
      (∃ t, exec (.plus o) s = .next t ∧ BinaryEffect (fun a b => wrap64 (a.toInt + b.toInt)) s t) ∧
      (∃ t, exec (.minus o) s = .next t ∧ BinaryEffect (fun a b => wrap64 (a.toInt - b.toInt)) s t) ∧
      (∃ t, exec (.mult o) s = .next t ∧ BinaryEffect (fun a b => wrap64 (a.toInt * b.toInt)) s t))

/-- R79: DIV with any record operand. The order of its two checks is the spec's decision D6. -/
def Obligations.DivEffect : Prop :=
  ∀ (o : Word) (s : State), (Instr.div o).encode = ⟨6#64, o⟩ ∧
    (s.sp < 2 → exec (.div o) s = .next { s with err := .stackUnderflow }) ∧
    (2 ≤ s.sp → s.slot (s.sp - 1) = 0#64 → exec (.div o) s = .next { s with err := .divByZero }) ∧
    (2 ≤ s.sp → s.slot (s.sp - 1) ≠ 0#64 → ∃ t, exec (.div o) s = .next t ∧
      BinaryEffect (fun a b => wrap64 (tdiv a.toInt b.toInt)) s t)

/-- R80: EQ with any record operand: exactly 1 or 0, by comparison of all 64 bits. -/
def Obligations.EqEffect : Prop :=
  ∀ (o : Word) (s : State), (Instr.eq o).encode = ⟨8#64, o⟩ ∧
    (s.sp < 2 → exec (.eq o) s = .next { s with err := .stackUnderflow }) ∧
    (2 ≤ s.sp → ∃ t, exec (.eq o) s = .next t ∧ BinaryEffect (fun a b => if a = b then 1#64 else 0#64) s t)

/-- R84: JMP_IF(t): one entry is consumed whether or not the branch is taken. That one entry suffices is the spec's
decision D7. -/
def Obligations.JmpIfEffect : Prop :=
  ∀ (target : Word) (s : State), (Instr.jmpIf target).encode = ⟨9#64, target⟩ ∧
    (s.sp < 1 → exec (.jmpIf target) s = .next { s with err := .stackUnderflow }) ∧
    (1 ≤ s.sp → ∃ t, exec (.jmpIf target) s = .next t ∧ OnlyStackAndIp s t ∧ t.sp = s.sp - 1 ∧ SameSlots s t ∧
      (s.slot (s.sp - 1) ≠ 0#64 → t.ip = target) ∧ (s.slot (s.sp - 1) = 0#64 → t.ip = s.ip + 1#64))

/-- R88: PRINT_DEBUG with any record operand: the popped Word is appended to the output channel; on an empty stack
nothing is emitted. -/
def Obligations.PrintDebugEffect : Prop :=
  ∀ (o : Word) (s : State), (Instr.printDebug o).encode = ⟨11#64, o⟩ ∧
    (s.sp < 1 → exec (.printDebug o) s = .next { s with err := .stackUnderflow }) ∧
    (1 ≤ s.sp → ∃ t, exec (.printDebug o) s = .next t ∧ SameHostState s t ∧ t.halted = s.halted ∧ t.err = s.err ∧
      t.sp = s.sp - 1 ∧ SameSlots s t ∧ t.debugOut = s.debugOut ++ [s.slot (s.sp - 1)] ∧ t.ip = s.ip + 1#64)

/-- 00_scope.md §5: `wrap64(n) = ((n + 2^63) mod 2^64) - 2^63`, "the unique Word congruent to it modulo 2^64". -/
def Obligations.WrapLaw : Prop :=
  ∀ n : Int, (wrap64 n).toInt = (n + 2 ^ 63) % 2 ^ 64 - 2 ^ 63 ∧
    ∀ w : Word, (2 ^ 64 : Int) ∣ w.toInt - n → w = wrap64 n

/-- R74: truncating division: its magnitude, its sign, its bound, and the one quotient outside the Word range, which
wraps to `-2^63` (that it wraps is the spec's decision D5). -/
def Obligations.TruncatingDivision : Prop :=
  ∀ a b : Word, b ≠ 0#64 →
    (tdiv a.toInt b.toInt).natAbs = a.toInt.natAbs / b.toInt.natAbs ∧
    (a.toInt = 0 ∨ (0 < a.toInt ↔ 0 < b.toInt) → 0 ≤ tdiv a.toInt b.toInt) ∧
    (¬ (a.toInt = 0 ∨ (0 < a.toInt ↔ 0 < b.toInt)) → tdiv a.toInt b.toInt ≤ 0) ∧
    (tdiv a.toInt b.toInt).natAbs ≤ a.toInt.natAbs ∧
    (a = minWord → b = -1#64 → tdiv a.toInt b.toInt = 2 ^ 63 ∧ wrap64 (tdiv a.toInt b.toInt) = minWord) ∧
    (¬ (a = minWord ∧ b = -1#64) → (wrap64 (tdiv a.toInt b.toInt)).toInt = tdiv a.toInt b.toInt)

/-- 30_encoding.md §5: where the core is not terminal, `ip` is in bounds and the record there decodes to an instruction,
one step is that instruction's meaning and nothing else. -/
def Obligations.StepRunsDecodedInstruction : Prop :=
  ∀ (s : State) (i : Instr), ¬ s.Terminal → 0 ≤ s.ip.toInt → s.ip.toInt < s.plen →
    decodeRecord (s.record s.ip.toInt.toNat) = .ok i → i.wellFormed = true → step s = exec i s

/-- R59: the whole step cycle: the terminal test, the bounds check, the decode, the dispatch, in this order; the STEP
command returns `REFUSED`, an error kind or `OK`. -/
def Obligations.StepCycle : Prop :=
  ∀ s : State,
    (s.Terminal → command .step s = (.refused, s)) ∧
    (¬ s.Terminal → s.ip.toInt < 0 ∨ (s.plen : Int) ≤ s.ip.toInt →
      command .step s = (.stepped .illegalInstAccess, { s with err := .illegalInstAccess })) ∧
    (¬ s.Terminal → 0 ≤ s.ip.toInt → s.ip.toInt < s.plen →
      (12 ≤ (s.record s.ip.toInt.toNat).tag.toNat →
        command .step s = (.stepped .illegalInstruction, { s with err := .illegalInstruction })) ∧
      ((s.record s.ip.toInt.toNat).tag.toNat < 12 →
        ∃ i t, i.encode = s.record s.ip.toInt.toNat ∧ exec i s = .next t ∧ command .step s = (.stepped t.err, t)))

/-- R97, R98: the two terminal states: STEP is refused and writes nothing, the core takes no step, RUN returns the
outcome at once with no step counted, `err` and `halted` stay; "for a model, the failed state is a fault", and the
halted state is none. -/
def Obligations.TerminalStatesTakeNoStep : Prop :=
  ∀ s : State,
    (s.err ≠ .ok → s.halted = false → command .step s = (.refused, s) ∧ (∃ f, step s = .fault f) ∧
      ∀ budget, command (.run budget) s =
        (.ran (.failed s.err), { s with runState := .failed, runSteps := 0 })) ∧
    (s.halted = true → command .step s = (.refused, s) ∧ (∀ t, step s ≠ .next t) ∧ (∀ f, step s ≠ .fault f) ∧
      ∀ budget, command (.run budget) s = (.ran .halted, { s with runState := .halted, runSteps := 0 }))

/-- 60_exceptions.md §4: the names under which the model's step stops in a terminal state (the model's own, log entries
8, 9 and 10). -/
def Obligations.TerminalStopsByName : Prop :=
  ∀ s : State, (s.halted = true → step s = .refused .halted) ∧
    (s.halted = false → s.err ≠ .ok → step s = .fault (.failed s.err))

/-- R95: error entry: a step that ends in an error has changed `err` alone, and the error kind is the step's result. -/
def Obligations.ErrorEntryWritesOnlyErr : Prop :=
  ∀ s t : State, step s = .next t → t.err ≠ .ok →
    t = { s with err := t.err } ∧ s.err = .ok ∧ command .step s = (.stepped t.err, t)

/-- 60_exceptions.md §1: a core that is not terminal always answers a STEP with a next state; the model neither faults
nor refuses there, whatever the state. -/
def Obligations.StepAnswersUnlessTerminal : Prop :=
  ∀ s : State, (¬ s.Terminal ↔ ∃ t, step s = .next t)

/-- R90: the codes of the error kinds, and which instruction raises which kind: from a state with `err = OK`, an
instruction's meaning ends in an error only as the table lists it. -/
def Obligations.ErrorKindsAndTheirCauses : Prop :=
  (ErrorKind.ok.code = 0 ∧ ErrorKind.stackOverflow.code = 1 ∧ ErrorKind.stackUnderflow.code = 2 ∧
    ErrorKind.illegalInstruction.code = 3 ∧ ErrorKind.illegalInstAccess.code = 4 ∧
    ErrorKind.illegalOperand.code = 5 ∧ ErrorKind.divByZero.code = 6) ∧
  ∀ s t : State, step s = .next t →
    (t.err = .stackOverflow → s.sp ≥ s.params.stackCapacity ∧
      ((∃ v, fetchDecode s = .ok (.push v)) ∨ ∃ k, fetchDecode s = .ok (.dup k))) ∧
    (t.err = .stackUnderflow →
      (∃ k, fetchDecode s = .ok (.dup k) ∧ (s.sp : Int) ≤ k.toInt) ∨
      (∃ o, s.sp < 2 ∧ (fetchDecode s = .ok (.plus o) ∨ fetchDecode s = .ok (.minus o) ∨ fetchDecode s = .ok (.mult o) ∨
        fetchDecode s = .ok (.div o) ∨ fetchDecode s = .ok (.eq o))) ∨
      (∃ o, s.sp < 1 ∧ (fetchDecode s = .ok (.jmpIf o) ∨ fetchDecode s = .ok (.printDebug o)))) ∧
    (t.err = .illegalInstruction → 0 ≤ s.ip.toInt ∧ s.ip.toInt < s.plen ∧
      12 ≤ (s.record s.ip.toInt.toNat).tag.toNat) ∧
    (t.err = .illegalInstAccess → s.ip.toInt < 0 ∨ (s.plen : Int) ≤ s.ip.toInt) ∧
    (t.err = .illegalOperand → ∃ k, fetchDecode s = .ok (.dup k) ∧ k.toInt < 0) ∧
    (t.err = .divByZero → (∃ o, fetchDecode s = .ok (.div o)) ∧ s.slot (s.sp - 1) = 0#64)

/-- 41_stack_and_nop.md, the stack-pointer law: a successful step needs and leaves the `sp` its opcode fixes, and a
failing step leaves `sp`. -/
def Obligations.StackPointerLaw : Prop :=
  ∀ (i : Instr) (s t : State), s.err = .ok → exec i s = .next t →
    (t.err = .ok → spReady s.params.stackCapacity i s.sp ∧ t.sp = spAfter i s.sp) ∧ (t.err ≠ .ok → t.sp = s.sp)

/-- 10_state.md §4 and §7: no step writes the program store, its length, `run_state`, `run_steps` or `load_status`, and
no slot of the stack but the one at the new top changes. -/
def Obligations.StepFrame : Prop :=
  ∀ s t : State, step s = .next t → SameHostState s t ∧ ∀ j, j + 1 ≠ t.sp → t.slot j = s.slot j

/-- R22: `halted` is set by HALT and by nothing else, and once set it stays until RESET. -/
def Obligations.HaltedSetOnlyByHalt : Prop :=
  (∀ s t : State, step s = .next t → (t.halted = true ↔ ∃ o, fetchDecode s = .ok (.halt o))) ∧
  (∀ (c : Command) (s : State), s.halted = true → c ≠ .reset → (command c s).2.halted = true) ∧
  (∀ s : State, (command .reset s).2.halted = false)

/-- R23: `err` is sticky: once it holds an error kind no command but RESET changes it; RESET returns it to `OK`; code 7
is never written. -/
def Obligations.ErrStickyUntilReset : Prop :=
  (∀ (c : Command) (s : State), s.err ≠ .ok → c ≠ .reset → (command c s).2.err = s.err) ∧
  (∀ s : State, (command .reset s).2.err = .ok) ∧ (∀ e : ErrorKind, e.code ≠ 7)

/-- R89: the output channel grows by the popped Word at each successful PRINT_DEBUG step, and by nothing at any other
step or at RESET, LOAD_MEM, LOAD_FILE, SAVE and OBSERVE. That RESET does not clear it is the model's reading of R113
(log entry 11). -/
def Obligations.OutputOnlyByPrintDebug : Prop :=
  (∀ s t : State, step s = .next t →
    ((∃ o, fetchDecode s = .ok (.printDebug o)) ∧ t.err = .ok ∧ t.debugOut = s.debugOut ++ [s.slot (s.sp - 1)]) ∨
    (((∀ o, fetchDecode s ≠ .ok (.printDebug o)) ∨ t.err ≠ .ok) ∧ t.debugOut = s.debugOut)) ∧
  (∀ (c : Command) (s : State), c ≠ .step → (∀ b, c ≠ .run b) → (command c s).2.debugOut = s.debugOut)

/-- 30_encoding.md §5, 10_state.md §2 and §4: on a machine with given parameters a step depends on `ip`, `sp`, the live
stack, the program, `halted` and `err` alone. Two states that agree on these step alike, agree afterwards and emit the same; so the contents of dead
slots, which the model chose at reset, are never seen. -/
def Obligations.StepSeesOnlyLiveState : Prop :=
  ∀ s u : State, s.Agree u →
    (∀ t, step s = .next t → ∃ v, step u = .next v ∧ t.Agree v ∧
      ∃ out, t.debugOut = s.debugOut ++ out ∧ v.debugOut = u.debugOut ++ out) ∧
    (∀ f, step s = .fault f → step u = .fault f) ∧ (∀ r, step s = .refused r → step u = .refused r)

/-- 30_encoding.md §1 and §2: decoding the bytes of any instruction, for either tag width and either byte order, with
anything after them, gives it back with what follows. -/
def Obligations.DecodeEncodeAgree : Prop :=
  ∀ (fmt : Format) (i : Instr) (rest : List Byte), i.wellFormed = true →
    decodeBytes fmt (i.bytes fmt ++ rest) = .ok (i, rest)

/-- R53: the decoder is total and exact: a record whose tag is one of 0–11 decodes to the one instruction whose record
it is; every other tag is illegal; the operand takes no part. -/
def Obligations.DecoderTotalAndExact : Prop :=
  ∀ r : Record,
    (r.tag.toNat < 12 → ∃ i, decodeRecord r = .ok i ∧ ∀ j : Instr, j.encode = r ↔ j = i) ∧
    (12 ≤ r.tag.toNat → decodeRecord r = .error (.illegal r.tag) ∧ ∀ j : Instr, j.encode ≠ r)

/-- 30_encoding.md §1, the instruction word: of the words of 128 bits, exactly the instruction's own word is read as
it. -/
def Obligations.TableWordHasOneMeaning : Prop :=
  ∀ (w : Nat) (i : Instr), w < 2 ^ 128 →
    (decodeTableWord 128 w = some i ↔ w = i.encode.tag.toNat + 2 ^ 64 * i.encode.operand.toNat)

/-- 95_test_vectors.md: a few records written out byte by byte, of every family, decode to the instructions they stand
for (the default format); tags 12 and 2^64 − 1 are illegal; and for every operand the tag alone selects the opcode. -/
def Obligations.SampleRecordsDecode : Prop :=
  decodeBytes Config.format [0x01, 0, 0, 0, 0, 0, 0, 0, 0xf9, 0xff, 0xff, 0xff, 0xff, 0xff, 0xff, 0xff] =
    .ok (.push (-7#64), []) ∧
  decodeBytes Config.format [0x06, 0, 0, 0, 0, 0, 0, 0, 0, 0, 0, 0, 0, 0, 0, 0] = .ok (.div 0#64, []) ∧
  decodeBytes Config.format [0x09, 0, 0, 0, 0, 0, 0, 0, 0xff, 0xff, 0xff, 0xff, 0xff, 0xff, 0xff, 0xff] =
    .ok (.jmpIf (-1#64), []) ∧
  decodeBytes Config.format [0x0b, 0, 0, 0, 0, 0, 0, 0, 5, 0, 0, 0, 0, 0, 0, 0] = .ok (.printDebug 5#64, []) ∧
  decodeBytes Config.format [0x0c, 0, 0, 0, 0, 0, 0, 0, 0, 0, 0, 0, 0, 0, 0, 0] = .error (.illegal 12#64) ∧
  decodeBytes Config.format [0xff, 0xff, 0xff, 0xff, 0xff, 0xff, 0xff, 0xff, 0, 0, 0, 0, 0, 0, 0, 0] =
    .error (.illegal (-1#64)) ∧
  ∀ o : Word, decodeRecord ⟨0#64, o⟩ = .ok (.nop o) ∧ decodeRecord ⟨2#64, o⟩ = .ok (.dup o)

/-- R50: the byte order of a record's two fields, for either tag width. -/
def Obligations.RecordByteOrder : Prop :=
  ∀ (tb : TagBytes) (r : Record) (j : Nat),
    (j < 8 → (r.bytes ⟨tb, .little⟩)[tb.count + j]? = some (r.operand.extractLsb' (8 * j) 8) ∧
      (r.bytes ⟨tb, .big⟩)[tb.count + j]? = some (r.operand.extractLsb' (56 - 8 * j) 8)) ∧
    (j < tb.count → (r.bytes ⟨tb, .little⟩)[j]? = some (r.tag.extractLsb' (8 * j) 8) ∧
      (r.bytes ⟨tb, .big⟩)[j]? = some (r.tag.extractLsb' (8 * tb.count - 8 - 8 * j) 8))

/-- R68: the round trip through a file, for every format and every length the store holds: loading what SAVE wrote
gives the same sequence, opcode and operand equal, in order. -/
def Obligations.SaveThenLoadRoundTrip : Prop :=
  ∀ (fmt : Format) (instrs : List Record) (s : State), instrs.length ≤ s.params.programCapacity →
    (∀ r ∈ instrs, r.fits fmt = true) →
    ∃ t, loadFileAs fmt (saveAs fmt instrs instrs.length) true s = t ∧ t.loadStatus = .ok ∧
      t.plen = instrs.length ∧ ∀ i (h : i < instrs.length), t.record i = instrs[i]

/-- R66: LOAD_MEM rejects `count >= PROGRAM_CAPACITY` and changes nothing else; otherwise it replaces the program, and
slots at and above `count` keep what they held. -/
def Obligations.LoadMemReplacesProgram : Prop :=
  ∀ (instrs : List Record) (count : Nat) (s : State),
    (count ≥ s.params.programCapacity →
      command (.loadMem instrs count) s = (.done, { s with loadStatus := .rejected })) ∧
    (count < s.params.programCapacity → count ≤ instrs.length → ∃ t, command (.loadMem instrs count) s = (.done, t) ∧
      t.loadStatus = .ok ∧ t.plen = count ∧ (∀ i, i < count → some (t.record i) = instrs[i]?) ∧
      (∀ i, count ≤ i → t.record i = s.record i) ∧
      t = { s with prog := t.prog, plen := t.plen, loadStatus := t.loadStatus })

/-- R65: LOAD_FILE, for every format: its three rejections in order, each leaving the program, and the load itself,
record by record from the image, without validation. -/
def Obligations.LoadFileReplacesProgram : Prop :=
  (∀ bytes ioOk (s : State), command (.loadFile bytes ioOk) s = (.done, loadFileAs s.params.format bytes ioOk s)) ∧
  ∀ (fmt : Format) (bytes : List Byte) (s : State),
    loadFileAs fmt bytes false s = { s with loadStatus := .ioError } ∧
    (bytes.length % fmt.recordBytes ≠ 0 ∨ bytes.length / fmt.recordBytes > s.params.programCapacity →
      loadFileAs fmt bytes true s = { s with loadStatus := .rejected }) ∧
    (bytes.length % fmt.recordBytes = 0 → bytes.length / fmt.recordBytes ≤ s.params.programCapacity →
      ∃ t, loadFileAs fmt bytes true s = t ∧ t.loadStatus = .ok ∧ t.plen = bytes.length / fmt.recordBytes ∧
        (∀ i, i < t.plen → t.record i =
          Record.ofBytes fmt ((bytes.drop (i * fmt.recordBytes)).take fmt.recordBytes)) ∧
        (∀ i, t.plen ≤ i → t.record i = s.record i) ∧
        t = { s with prog := t.prog, plen := t.plen, loadStatus := t.loadStatus })

/-- R67: SAVE returns the byte image of `count` records, laid end to end, and changes no core state. -/
def Obligations.SaveWritesRecordsEndToEnd : Prop :=
  (∀ instrs count (s : State), command (.save instrs count) s = (.image (saveAs s.params.format instrs count), s)) ∧
  ∀ (fmt : Format) (instrs : List Record) (count : Nat), count ≤ instrs.length →
    (saveAs fmt instrs count).length = count * fmt.recordBytes ∧
    ∀ i (h : i < instrs.length), i < count →
      ((saveAs fmt instrs count).drop (i * fmt.recordBytes)).take fmt.recordBytes = instrs[i].bytes fmt

/-- R114: the LOAD commands change only the program, its length and `load_status`. -/
def Obligations.LoadsKeepExecutionState : Prop :=
  ∀ (c : Command) (s : State), ((∃ instrs count, c = .loadMem instrs count) ∨ ∃ bytes ioOk, c = .loadFile bytes ioOk) →
    ∃ t, command c s = (.done, t) ∧ t.ip = s.ip ∧ t.sp = s.sp ∧ (∀ i, t.slot i = s.slot i) ∧ t.halted = s.halted ∧
      t.err = s.err ∧ t.runState = s.runState ∧ t.runSteps = s.runSteps ∧ t.debugOut = s.debugOut

/-- 60_exceptions.md §5 (the loop of RUN and its outcomes): RUN is repeated STEP: from any state it takes `run_steps`
steps, at most `budget`; it ends HALTED where they reach a halted state, FAILED with the kind in `err` where they reach
an error, and BUDGET_EXCEEDED where the whole budget is used and neither holds; nothing but `run_state` and `run_steps`
differs from those steps. For budgets above 2^64 it rests on log entry 7 (DESIGN CHOICE, unsafe): the model's
`run_steps` never wraps. -/
def Obligations.RunIsRepeatedStep : Prop :=
  ∀ (budget : Nat) (s : State), ∃ o t u,
    command (.run budget) s = (.ran o, t) ∧ Host.Core.run Sys2Proof.core t.runSteps s = .next u ∧
    t = { u with runState := t.runState, runSteps := t.runSteps } ∧ t.runSteps ≤ budget ∧
    (o = .halted → u.halted = true ∧ t.runState = .halted) ∧
    (∀ k, o = .failed k → u.halted = false ∧ u.err = k ∧ k ≠ .ok ∧ t.runState = .failed) ∧
    (o = .budgetExceeded → u.halted = false ∧ u.err = .ok ∧ t.runSteps = budget ∧ t.runState = .budgetExceeded)

/-- 60_exceptions.md §5: "A RUN after a BUDGET_EXCEEDED continues from the current state with a fresh count": two such
RUNs end as one RUN with both budgets does, but for the count. Where `m + n` exceeds 2^64 it rests on log entry 7
(DESIGN CHOICE, unsafe): the model's `run_steps` never wraps. -/
def Obligations.RunContinuesAfterBudget : Prop :=
  ∀ (m n : Nat) (s t : State), command (.run m) s = (.ran .budgetExceeded, t) →
    (command (.run n) t).1 = (command (.run (m + n)) s).1 ∧
    (command (.run (m + n)) s).2 =
      { (command (.run n) t).2 with runSteps := m + (command (.run n) t).2.runSteps }

/-- R103: running out of budget does not write `err`, and a program without HALT never ends HALTED, under any
budget. -/
def Obligations.BudgetEndIsNoSuccess : Prop :=
  (∀ budget (s t : State), command (.run budget) s = (.ran .budgetExceeded, t) → t.err = .ok ∧ s.err = .ok ∧ ¬ t.Terminal) ∧
  ∀ budget (s t : State) o, s.halted = false → (∀ i, i < s.plen → (s.record i).tag ≠ 10#64) →
    command (.run budget) s = (.ran o, t) → o = .budgetExceeded ∨ ∃ k, k ≠ .ok ∧ o = .failed k

/-- 60_exceptions.md §5 (R103's sentence on a program without HALT), as a step lemma: from a core that has not halted
and whose program holds no HALT record, every step leaves such a core. -/
def Obligations.StepKeepsWithoutHalt : Prop :=
  ∀ s t : State, s.WithoutHalt → step s = .next t → t.WithoutHalt

/-- 93_implementation_defined.md row 18, 00_scope.md R6: the parameters are fixed for the machine. Power-on reset takes
them as its argument, the state the interface starts from has the spec's defaults, and no step and no host command
changes them. That the model keeps them in its state is its own choice (log entry 3). -/
def Obligations.ParametersNeverChange : Prop :=
  (∀ p : Params, (State.resetWith p).params = p) ∧ State.reset = State.resetWith Config.params ∧
  (∀ s t : State, step s = .next t → t.params = s.params) ∧
  ∀ (c : Command) (s : State), (command c s).2.params = s.params

/-- R118: with no program the first step reports ILLEGAL_INST_ACCESS, wherever `ip` is, and a RUN with a non-zero budget
fails after that one step. -/
def Obligations.EmptyProgramFails : Prop :=
  ∀ s : State, ¬ s.Terminal → s.plen = 0 →
    command .step s = (.stepped .illegalInstAccess, { s with err := .illegalInstAccess }) ∧
    ∀ budget, 0 < budget → command (.run budget) s =
      (.ran (.failed .illegalInstAccess), { s with err := .illegalInstAccess, runState := .failed, runSteps := 1 })

/-- R86: targets are checked lazily: JMP and a taken JMP_IF write any Word to `ip`, and the step after one that left
`ip` out of bounds reports ILLEGAL_INST_ACCESS and still holds the bad `ip`; so does the step after the last slot. -/
def Obligations.TargetsCheckedLazily : Prop :=
  ∀ s t : State, ¬ s.Terminal →
    (∀ target, fetchDecode s = .ok (.jmp target) ∨
        (fetchDecode s = .ok (.jmpIf target) ∧ 1 ≤ s.sp ∧ s.slot (s.sp - 1) ≠ 0#64) →
      ∃ u, step s = .next u ∧ u.ip = target ∧ u.err = .ok ∧ ¬ u.Terminal) ∧
    (step s = .next t → ¬ t.Terminal → t.ip.toInt < 0 ∨ (t.plen : Int) ≤ t.ip.toInt →
      step t = .next { t with err := .illegalInstAccess })

/-- 10_state.md §3: how a step moves `ip`: by one without wrapping and never past `PROGRAM_CAPACITY`, to a branch's
operand, or, for HALT and an error, not at all. The premise on `PROGRAM_CAPACITY` says it is a Word. -/
def Obligations.IpAdvance : Prop :=
  ∀ s t : State, s.params.programCapacity < 2 ^ 63 → s.Inv → step s = .next t →
    (t.err ≠ .ok ∨ t.halted = true → t.ip = s.ip) ∧
    (t.err = .ok → t.halted = false →
      (t.ip.toInt = s.ip.toInt + 1 ∧ t.ip.toInt ≤ s.params.programCapacity) ∨
      fetchDecode s = .ok (.jmp t.ip) ∨ fetchDecode s = .ok (.jmpIf t.ip))

/-- R31: OBSERVE returns the live stack, bottom first, the program and the registers, and changes no state. -/
def Obligations.ObserveReadsWithoutEffect : Prop :=
  ∀ s : State, ∃ o : Observation, command .observe s = (.observed o, s) ∧
    o.ip = s.ip ∧ o.sp = s.sp ∧ o.plen = s.plen ∧ o.halted = s.halted ∧ o.err = s.err ∧ o.runState = s.runState ∧
    o.runSteps = s.runSteps ∧ o.loadStatus = s.loadStatus ∧ o.stack.length = s.sp ∧ o.program.length = s.plen ∧
    (∀ i, i < s.sp → o.stack[i]? = some (s.slot i)) ∧ ∀ i, i < s.plen → o.program[i]? = some (s.record i)
end

