-- ==== Sys2Proof/Laws/Decode.lean ====
section
/-! SUPPORT. The laws of the byte images and of the tag table. -/

namespace Sys2Proof

@[simp] theorem littleBytes_length (n x : Nat) : (littleBytes n x).length = n := by
  induction n generalizing x with
  | zero => rfl
  | succ n ih => simp [littleBytes, ih]

@[simp] theorem fieldBytes_length (o : ByteOrder) (n x : Nat) : (fieldBytes o n x).length = n := by
  cases o <;> simp [fieldBytes]

/-- The bytes of a number hold it, as far as they reach. -/
theorem ofLittleBytes_littleBytes (n x : Nat) : ofLittleBytes (littleBytes n x) = x % 256 ^ n := by
  induction n generalizing x with
  | zero => simp [littleBytes, ofLittleBytes, Nat.mod_one]
  | succ n ih =>
    simp only [littleBytes, ofLittleBytes, ih, BitVec.toNat_ofNat]
    exact (pow_succ' 256 n ▸ Nat.mod_mul (a := 256) (b := 256 ^ n) (x := x)).symm

/-- A field read from its own bytes, in either byte order. -/
theorem ofFieldBytes_fieldBytes (o : ByteOrder) (n x : Nat) : ofFieldBytes o (fieldBytes o n x) = x % 256 ^ n := by
  cases o <;> simp [ofFieldBytes, fieldBytes, ofLittleBytes_littleBytes]

@[simp] theorem Record.bytes_length (fmt : Format) (r : Record) : (r.bytes fmt).length = fmt.recordBytes := by
  simp [Record.bytes, Format.recordBytes]

theorem Format.recordBytes_pos (fmt : Format) : 0 < fmt.recordBytes := by simp [Format.recordBytes]

/-- A record that fits its format is read back from its bytes, whatever follows them. -/
theorem Record.ofBytes_bytes (fmt : Format) (r : Record) (h : r.fits fmt = true) (rest : List Byte) :
    Record.ofBytes fmt (r.bytes fmt ++ rest) = r := by
  obtain ⟨tag, operand⟩ := r
  have h1 : tag.toNat < 2 ^ (8 * fmt.tagBytes.count) := by simpa [Record.fits] using h
  have h2 : (256 : Nat) ^ fmt.tagBytes.count = 2 ^ (8 * fmt.tagBytes.count) := by rw [pow_mul]; rfl
  have h3 : operand.toNat < 256 ^ 8 := operand.isLt
  simp only [Record.ofBytes, Record.bytes, List.append_assoc]
  rw [List.take_left' (by simp), List.drop_left' (by simp), List.take_left' (by simp), ofFieldBytes_fieldBytes,
    ofFieldBytes_fieldBytes, h2, Nat.mod_eq_of_lt h1, Nat.mod_eq_of_lt h3]
  simp

/-- An instruction's tag is one of 0–11, so its record fits either tag width. -/
theorem Instr.encode_fits (i : Instr) (fmt : Format) : i.encode.fits fmt = true := by
  obtain ⟨tb, o⟩ := fmt
  cases i <;> cases tb <;> rfl

/-- A record decodes to an instruction only if it is that instruction's record. -/
theorem encode_of_decodeRecord {r : Record} {i : Instr} (h : decodeRecord r = .ok i) : i.encode = r := by
  obtain ⟨tag, operand⟩ := r
  unfold decodeRecord at h
  split at h <;> cases h <;>
    next ht => exact congrArg (Record.mk · operand) (BitVec.eq_of_toNat_eq ht.symm)

/-- Reading an image of records gives their sequence back. -/
theorem recordsOfImage_imageOfRecords (fmt : Format) (rs : List Record) (h : ∀ r ∈ rs, r.fits fmt = true) :
    recordsOfImage fmt rs.length (imageOfRecords fmt rs) = rs := by
  induction rs with
  | nil => rfl
  | cons r rs ih =>
    simp only [List.length_cons, recordsOfImage, imageOfRecords]
    rw [Record.ofBytes_bytes fmt r (h r (by simp)), List.drop_left' (by simp), ih fun q hq => h q (by simp [hq])]

@[simp] theorem imageOfRecords_length (fmt : Format) (rs : List Record) :
    (imageOfRecords fmt rs).length = rs.length * fmt.recordBytes := by
  induction rs with
  | nil => simp [imageOfRecords]
  | cons r rs ih => simp [imageOfRecords, ih, Nat.succ_mul, Nat.add_comm]

@[simp] theorem recordsOfImage_length (fmt : Format) (n : Nat) (bs : List Byte) :
    (recordsOfImage fmt n bs).length = n := by
  induction n generalizing bs with
  | zero => rfl
  | succ n ih => simp [recordsOfImage, ih]

end Sys2Proof
end

