-- ==== Sys2Proof/Laws/Memory.lean ====
section
/-! SUPPORT. The laws of the storage spaces: a read after a write, the canonical form, and that equal contents in
canonical form are equal data. -/

namespace Sys2Proof.Machine

variable {α : Type} {d : α}

@[simp] theorem Memory.read_nil (i : Nat) : Memory.read d [] i = d := rfl

theorem Memory.mem_erase {m : Memory α} {i : Nat} {c : Nat × α} : c ∈ Memory.erase m i ↔ c ∈ m ∧ c.1 ≠ i := by
  induction m with
  | nil => simp [Memory.erase]
  | cons e rest ih =>
    obtain ⟨j, w⟩ := e
    by_cases h : i = j
    · subst h
      simp only [Memory.erase, ↓reduceIte, ih, List.mem_cons]
      constructor
      · exact fun ⟨a, b⟩ => ⟨.inr a, b⟩
      · rintro ⟨rfl | a, b⟩
        · exact absurd rfl b
        · exact ⟨a, b⟩
    · simp only [Memory.erase, h, ↓reduceIte, List.mem_cons, ih]
      constructor
      · rintro (rfl | ⟨a, b⟩)
        · exact ⟨.inl rfl, Ne.symm h⟩
        · exact ⟨.inr a, b⟩
      · rintro ⟨rfl | a, b⟩
        · exact .inl rfl
        · exact .inr ⟨a, b⟩

theorem Memory.mem_insert {m : Memory α} {i : Nat} {v : α} {c : Nat × α} :
    c ∈ Memory.insert m i v ↔ c = (i, v) ∨ c ∈ m := by
  induction m with
  | nil => simp [Memory.insert]
  | cons e rest ih =>
    simp only [Memory.insert]
    split
    · simp
    · simp only [List.mem_cons, ih]; tauto

theorem Memory.read_erase_self (m : Memory α) (i : Nat) : (m.erase i).read d i = d := by
  induction m with
  | nil => rfl
  | cons e rest ih =>
    by_cases h : i = e.1
    · simpa [Memory.erase, h] using h ▸ ih
    · simpa [Memory.erase, Memory.read, h] using ih

theorem Memory.read_erase_ne (m : Memory α) {i j : Nat} (h : j ≠ i) : (m.erase i).read d j = m.read d j := by
  induction m with
  | nil => rfl
  | cons e rest ih =>
    by_cases hi : i = e.1
    · simp [Memory.erase, Memory.read, ih, ← hi, h]
    · simp [Memory.erase, Memory.read, hi, ih]

theorem Memory.read_insert_self {m : Memory α} {i : Nat} (h : ∀ c ∈ m, c.1 ≠ i) (v : α) :
    (m.insert i v).read d i = v := by
  induction m with
  | nil => simp [Memory.insert, Memory.read]
  | cons e rest ih =>
    have hi : i ≠ e.1 := (h e (by simp)).symm
    simp only [Memory.insert]
    split
    · simp [Memory.read]
    · simpa [Memory.read, hi] using ih fun c hc => h c (by simp [hc])

theorem Memory.read_insert_ne (m : Memory α) {i j : Nat} (h : j ≠ i) (v : α) :
    (m.insert i v).read d j = m.read d j := by
  induction m with
  | nil => simp [Memory.insert, Memory.read, h]
  | cons e rest ih =>
    simp only [Memory.insert]
    split
    · simp [Memory.read, h]
    · simp [Memory.read, ih]

theorem Memory.read_of_forall_lt {m : Memory α} {i : Nat} (h : ∀ c ∈ m, i < c.1) : m.read d i = d := by
  induction m with
  | nil => rfl
  | cons e rest ih =>
    have : i ≠ e.1 := (h e (by simp)).ne
    simpa [Memory.read, this] using ih fun c hc => h c (by simp [hc])

theorem Memory.read_cons (e : Nat × α) (m : Memory α) (i : Nat) :
    Memory.read d (e :: m) i = if i = e.1 then e.2 else m.read d i := rfl

variable [DecidableEq α]

/-- A read after a write to the same slot gives what was written. -/
@[simp] theorem Memory.read_write_self (m : Memory α) (i : Nat) (v : α) : (m.write d i v).read d i = v := by
  unfold Memory.write
  split
  · next h => rw [Memory.read_erase_self, h]
  · exact Memory.read_insert_self (fun _ hc => (Memory.mem_erase.mp hc).2) v

/-- A write leaves every other slot alone. -/
theorem Memory.read_write_ne (m : Memory α) {i j : Nat} (h : j ≠ i) (v : α) :
    (m.write d i v).read d j = m.read d j := by
  unfold Memory.write
  split
  · exact Memory.read_erase_ne m h
  · rw [Memory.read_insert_ne _ h, Memory.read_erase_ne m h]

theorem Memory.read_write (m : Memory α) (i j : Nat) (v : α) :
    (m.write d i v).read d j = if j = i then v else m.read d j := by
  split
  · next h => rw [h, Memory.read_write_self]
  · next h => exact Memory.read_write_ne m h v

theorem Memory.wf_cons {e : Nat × α} {m : Memory α} :
    Memory.wf d (e :: m) = true ↔ e.2 ≠ d ∧ (∀ c ∈ m, e.1 < c.1) ∧ m.wf d = true := by
  simp [Memory.wf, List.all_eq_true, and_assoc]

theorem Memory.wf_erase {m : Memory α} (h : m.wf d = true) (i : Nat) : (m.erase i).wf d = true := by
  induction m with
  | nil => rfl
  | cons e rest ih =>
    obtain ⟨h1, h2, h3⟩ := Memory.wf_cons.mp h
    simp only [Memory.erase]
    split
    · exact ih h3
    · exact Memory.wf_cons.mpr ⟨h1, fun c hc => h2 c (Memory.mem_erase.mp hc).1, ih h3⟩

theorem Memory.wf_insert {m : Memory α} (h : m.wf d = true) {i : Nat} {v : α} (hv : v ≠ d)
    (hi : ∀ c ∈ m, c.1 ≠ i) : (m.insert i v).wf d = true := by
  induction m with
  | nil => simp [Memory.insert, Memory.wf, hv]
  | cons e rest ih =>
    obtain ⟨h1, h2, h3⟩ := Memory.wf_cons.mp h
    simp only [Memory.insert]
    split
    · next hlt =>
      refine Memory.wf_cons.mpr ⟨hv, fun c hc => ?_, h⟩
      rcases List.mem_cons.mp hc with rfl | hc
      · exact hlt
      · exact hlt.trans (h2 c hc)
    · next hge =>
      refine Memory.wf_cons.mpr ⟨h1, fun c hc => ?_, ih h3 fun c hc => hi c (by simp [hc])⟩
      rcases Memory.mem_insert.mp hc with rfl | hc
      · have := hi e (by simp); simp only at hge ⊢; omega
      · exact h2 c hc

/-- A write keeps the canonical form. -/
theorem Memory.wf_write {m : Memory α} (h : m.wf d = true) (i : Nat) (v : α) : (m.write d i v).wf d = true := by
  unfold Memory.write
  split
  · exact Memory.wf_erase h i
  · next hv => exact Memory.wf_insert (Memory.wf_erase h i) hv fun _ hc => (Memory.mem_erase.mp hc).2

/-- A write to a slot that exists keeps every listed slot one that exists. -/
theorem Memory.below_write {m : Memory α} {n i : Nat} (h : m.below n = true) (hi : i < n) (v : α) :
    (m.write d i v).below n = true := by
  simp only [Memory.below, List.all_eq_true, decide_eq_true_eq] at h ⊢
  intro c hc
  unfold Memory.write at hc
  split at hc
  · exact h c (Memory.mem_erase.mp hc).1
  · rcases Memory.mem_insert.mp hc with rfl | hc
    · exact hi
    · exact h c (Memory.mem_erase.mp hc).1

/-- Writing a list: its elements stand in the slots from `i` on, every other slot is left alone. -/
theorem Memory.read_writeList (vs : List α) (m : Memory α) (i j : Nat) :
    (m.writeList d i vs).read d j = if i ≤ j then vs.getD (j - i) (m.read d j) else m.read d j := by
  induction vs generalizing m i with
  | nil => simp [Memory.writeList]
  | cons v vs ih =>
    simp only [Memory.writeList, ih, Memory.read_write]
    by_cases h : j = i
    · subst h; simp
    · by_cases hij : i ≤ j
      · have h1 : i + 1 ≤ j := by omega
        have h2 : j - i = (j - (i + 1)) + 1 := by omega
        simp [h, hij, h1, h2]
      · have h1 : ¬ i + 1 ≤ j := by omega
        simp [h, hij, h1]

theorem Memory.wf_writeList (vs : List α) {m : Memory α} (h : m.wf d = true) (i : Nat) :
    (m.writeList d i vs).wf d = true := by
  induction vs generalizing m i with
  | nil => exact h
  | cons v vs ih => exact ih (Memory.wf_write h i v) (i + 1)

theorem Memory.below_writeList (vs : List α) {m : Memory α} {n i : Nat} (h : m.below n = true)
    (hi : i + vs.length ≤ n) : (m.writeList d i vs).below n = true := by
  induction vs generalizing m i with
  | nil => exact h
  | cons v vs ih =>
    simp only [List.length_cons] at hi
    exact ih (Memory.below_write h (by omega) v) (by omega)

/-- Memories in canonical form that read alike are equal data. -/
theorem Memory.ext_of_wf {m n : Memory α} (hm : m.wf d = true) (hn : n.wf d = true)
    (h : ∀ i, m.read d i = n.read d i) : m = n := by
  induction m generalizing n with
  | nil =>
    cases n with
    | nil => rfl
    | cons e n =>
      obtain ⟨h1, -, -⟩ := Memory.wf_cons.mp hn
      exact absurd (by simpa [Memory.read_cons] using (h e.1).symm) h1
  | cons e m ih =>
    obtain ⟨h1, h2, h3⟩ := Memory.wf_cons.mp hm
    cases n with
    | nil => exact absurd (by simpa [Memory.read_cons] using h e.1) h1
    | cons f n =>
      obtain ⟨g1, g2, g3⟩ := Memory.wf_cons.mp hn
      have key : e.1 = f.1 := by
        rcases lt_trichotomy e.1 f.1 with hlt | heq | hgt
        · have := h e.1
          rw [Memory.read_cons, Memory.read_cons, if_pos rfl, if_neg hlt.ne,
            Memory.read_of_forall_lt fun c hc => hlt.trans (g2 c hc)] at this
          exact absurd this h1
        · exact heq
        · have := h f.1
          rw [Memory.read_cons, Memory.read_cons, if_pos rfl, if_neg hgt.ne,
            Memory.read_of_forall_lt fun c hc => hgt.trans (h2 c hc)] at this
          exact absurd this.symm g1
      have val : e.2 = f.2 := by
        have := h e.1
        rwa [Memory.read_cons, Memory.read_cons, if_pos rfl, if_pos key] at this
      have ef : e = f := Prod.ext key val
      subst ef
      congr 1
      refine ih h3 g3 fun i => ?_
      by_cases hi : i = e.1
      · subst hi
        rw [Memory.read_of_forall_lt h2, Memory.read_of_forall_lt g2]
      · have := h i
        rwa [Memory.read_cons, Memory.read_cons, if_neg hi, if_neg hi] at this

end Sys2Proof.Machine
end

