-- ==== Sys2Proof/Laws/State.lean ====
section
/-! SUPPORT. What each update of the state leaves in each field, so that no proof unfolds a record update, and how a
slot of the stack or of the program store reads after an update. -/

namespace Sys2Proof.Machine

@[simp] theorem State.resetWith_params (p : Params) : (State.resetWith p).params = p := rfl
@[simp] theorem State.resetWith_stack (p : Params) : (State.resetWith p).stack = [] := rfl
@[simp] theorem State.resetWith_sp (p : Params) : (State.resetWith p).sp = 0 := rfl
@[simp] theorem State.resetWith_ip (p : Params) : (State.resetWith p).ip = 0#64 := rfl
@[simp] theorem State.resetWith_prog (p : Params) : (State.resetWith p).prog = [] := rfl
@[simp] theorem State.resetWith_plen (p : Params) : (State.resetWith p).plen = 0 := rfl
@[simp] theorem State.resetWith_halted (p : Params) : (State.resetWith p).halted = false := rfl
@[simp] theorem State.resetWith_err (p : Params) : (State.resetWith p).err = .ok := rfl
@[simp] theorem State.resetWith_runState (p : Params) : (State.resetWith p).runState = .ready := rfl
@[simp] theorem State.resetWith_runSteps (p : Params) : (State.resetWith p).runSteps = 0 := rfl
@[simp] theorem State.resetWith_loadStatus (p : Params) : (State.resetWith p).loadStatus = .ok := rfl
@[simp] theorem State.resetWith_debugOut (p : Params) : (State.resetWith p).debugOut = [] := rfl

@[simp] theorem State.setSlot_params (i : Nat) (v : Word) (s : State) : (s.setSlot i v).params = s.params := rfl
@[simp] theorem State.setSlot_stack (i : Nat) (v : Word) (s : State) : (s.setSlot i v).stack = s.stack.write State.unwrittenWord i v := rfl
@[simp] theorem State.setSlot_sp (i : Nat) (v : Word) (s : State) : (s.setSlot i v).sp = s.sp := rfl
@[simp] theorem State.setSlot_ip (i : Nat) (v : Word) (s : State) : (s.setSlot i v).ip = s.ip := rfl
@[simp] theorem State.setSlot_prog (i : Nat) (v : Word) (s : State) : (s.setSlot i v).prog = s.prog := rfl
@[simp] theorem State.setSlot_plen (i : Nat) (v : Word) (s : State) : (s.setSlot i v).plen = s.plen := rfl
@[simp] theorem State.setSlot_halted (i : Nat) (v : Word) (s : State) : (s.setSlot i v).halted = s.halted := rfl
@[simp] theorem State.setSlot_err (i : Nat) (v : Word) (s : State) : (s.setSlot i v).err = s.err := rfl
@[simp] theorem State.setSlot_runState (i : Nat) (v : Word) (s : State) : (s.setSlot i v).runState = s.runState := rfl
@[simp] theorem State.setSlot_runSteps (i : Nat) (v : Word) (s : State) : (s.setSlot i v).runSteps = s.runSteps := rfl
@[simp] theorem State.setSlot_loadStatus (i : Nat) (v : Word) (s : State) : (s.setSlot i v).loadStatus = s.loadStatus := rfl
@[simp] theorem State.setSlot_debugOut (i : Nat) (v : Word) (s : State) : (s.setSlot i v).debugOut = s.debugOut := rfl
@[simp] theorem State.setSlot_record (i : Nat) (v : Word) (s : State) (j : Nat) : (s.setSlot i v).record j = s.record j := rfl

@[simp] theorem State.setSp_params (n : Nat) (s : State) : (s.setSp n).params = s.params := rfl
@[simp] theorem State.setSp_stack (n : Nat) (s : State) : (s.setSp n).stack = s.stack := rfl
@[simp] theorem State.setSp_sp (n : Nat) (s : State) : (s.setSp n).sp = n := rfl
@[simp] theorem State.setSp_ip (n : Nat) (s : State) : (s.setSp n).ip = s.ip := rfl
@[simp] theorem State.setSp_prog (n : Nat) (s : State) : (s.setSp n).prog = s.prog := rfl
@[simp] theorem State.setSp_plen (n : Nat) (s : State) : (s.setSp n).plen = s.plen := rfl
@[simp] theorem State.setSp_halted (n : Nat) (s : State) : (s.setSp n).halted = s.halted := rfl
@[simp] theorem State.setSp_err (n : Nat) (s : State) : (s.setSp n).err = s.err := rfl
@[simp] theorem State.setSp_runState (n : Nat) (s : State) : (s.setSp n).runState = s.runState := rfl
@[simp] theorem State.setSp_runSteps (n : Nat) (s : State) : (s.setSp n).runSteps = s.runSteps := rfl
@[simp] theorem State.setSp_loadStatus (n : Nat) (s : State) : (s.setSp n).loadStatus = s.loadStatus := rfl
@[simp] theorem State.setSp_debugOut (n : Nat) (s : State) : (s.setSp n).debugOut = s.debugOut := rfl
@[simp] theorem State.setSp_slot (n : Nat) (s : State) (j : Nat) : (s.setSp n).slot j = s.slot j := rfl
@[simp] theorem State.setSp_record (n : Nat) (s : State) (j : Nat) : (s.setSp n).record j = s.record j := rfl

@[simp] theorem State.push_params (v : Word) (s : State) : (s.push v).params = s.params := rfl
@[simp] theorem State.push_stack (v : Word) (s : State) : (s.push v).stack = s.stack.write State.unwrittenWord s.sp v := rfl
@[simp] theorem State.push_sp (v : Word) (s : State) : (s.push v).sp = s.sp + 1 := rfl
@[simp] theorem State.push_ip (v : Word) (s : State) : (s.push v).ip = s.ip := rfl
@[simp] theorem State.push_prog (v : Word) (s : State) : (s.push v).prog = s.prog := rfl
@[simp] theorem State.push_plen (v : Word) (s : State) : (s.push v).plen = s.plen := rfl
@[simp] theorem State.push_halted (v : Word) (s : State) : (s.push v).halted = s.halted := rfl
@[simp] theorem State.push_err (v : Word) (s : State) : (s.push v).err = s.err := rfl
@[simp] theorem State.push_runState (v : Word) (s : State) : (s.push v).runState = s.runState := rfl
@[simp] theorem State.push_runSteps (v : Word) (s : State) : (s.push v).runSteps = s.runSteps := rfl
@[simp] theorem State.push_loadStatus (v : Word) (s : State) : (s.push v).loadStatus = s.loadStatus := rfl
@[simp] theorem State.push_debugOut (v : Word) (s : State) : (s.push v).debugOut = s.debugOut := rfl
@[simp] theorem State.push_record (v : Word) (s : State) (j : Nat) : (s.push v).record j = s.record j := rfl

@[simp] theorem State.setIp_params (t : Word) (s : State) : (s.setIp t).params = s.params := rfl
@[simp] theorem State.setIp_stack (t : Word) (s : State) : (s.setIp t).stack = s.stack := rfl
@[simp] theorem State.setIp_sp (t : Word) (s : State) : (s.setIp t).sp = s.sp := rfl
@[simp] theorem State.setIp_ip (t : Word) (s : State) : (s.setIp t).ip = t := rfl
@[simp] theorem State.setIp_prog (t : Word) (s : State) : (s.setIp t).prog = s.prog := rfl
@[simp] theorem State.setIp_plen (t : Word) (s : State) : (s.setIp t).plen = s.plen := rfl
@[simp] theorem State.setIp_halted (t : Word) (s : State) : (s.setIp t).halted = s.halted := rfl
@[simp] theorem State.setIp_err (t : Word) (s : State) : (s.setIp t).err = s.err := rfl
@[simp] theorem State.setIp_runState (t : Word) (s : State) : (s.setIp t).runState = s.runState := rfl
@[simp] theorem State.setIp_runSteps (t : Word) (s : State) : (s.setIp t).runSteps = s.runSteps := rfl
@[simp] theorem State.setIp_loadStatus (t : Word) (s : State) : (s.setIp t).loadStatus = s.loadStatus := rfl
@[simp] theorem State.setIp_debugOut (t : Word) (s : State) : (s.setIp t).debugOut = s.debugOut := rfl
@[simp] theorem State.setIp_slot (t : Word) (s : State) (j : Nat) : (s.setIp t).slot j = s.slot j := rfl
@[simp] theorem State.setIp_record (t : Word) (s : State) (j : Nat) : (s.setIp t).record j = s.record j := rfl

@[simp] theorem State.advance_params (s : State) : (s.advance).params = s.params := rfl
@[simp] theorem State.advance_stack (s : State) : (s.advance).stack = s.stack := rfl
@[simp] theorem State.advance_sp (s : State) : (s.advance).sp = s.sp := rfl
@[simp] theorem State.advance_ip (s : State) : (s.advance).ip = s.ip + 1#64 := rfl
@[simp] theorem State.advance_prog (s : State) : (s.advance).prog = s.prog := rfl
@[simp] theorem State.advance_plen (s : State) : (s.advance).plen = s.plen := rfl
@[simp] theorem State.advance_halted (s : State) : (s.advance).halted = s.halted := rfl
@[simp] theorem State.advance_err (s : State) : (s.advance).err = s.err := rfl
@[simp] theorem State.advance_runState (s : State) : (s.advance).runState = s.runState := rfl
@[simp] theorem State.advance_runSteps (s : State) : (s.advance).runSteps = s.runSteps := rfl
@[simp] theorem State.advance_loadStatus (s : State) : (s.advance).loadStatus = s.loadStatus := rfl
@[simp] theorem State.advance_debugOut (s : State) : (s.advance).debugOut = s.debugOut := rfl
@[simp] theorem State.advance_slot (s : State) (j : Nat) : (s.advance).slot j = s.slot j := rfl
@[simp] theorem State.advance_record (s : State) (j : Nat) : (s.advance).record j = s.record j := rfl

@[simp] theorem State.emit_params (v : Word) (s : State) : (s.emit v).params = s.params := rfl
@[simp] theorem State.emit_stack (v : Word) (s : State) : (s.emit v).stack = s.stack := rfl
@[simp] theorem State.emit_sp (v : Word) (s : State) : (s.emit v).sp = s.sp := rfl
@[simp] theorem State.emit_ip (v : Word) (s : State) : (s.emit v).ip = s.ip := rfl
@[simp] theorem State.emit_prog (v : Word) (s : State) : (s.emit v).prog = s.prog := rfl
@[simp] theorem State.emit_plen (v : Word) (s : State) : (s.emit v).plen = s.plen := rfl
@[simp] theorem State.emit_halted (v : Word) (s : State) : (s.emit v).halted = s.halted := rfl
@[simp] theorem State.emit_err (v : Word) (s : State) : (s.emit v).err = s.err := rfl
@[simp] theorem State.emit_runState (v : Word) (s : State) : (s.emit v).runState = s.runState := rfl
@[simp] theorem State.emit_runSteps (v : Word) (s : State) : (s.emit v).runSteps = s.runSteps := rfl
@[simp] theorem State.emit_loadStatus (v : Word) (s : State) : (s.emit v).loadStatus = s.loadStatus := rfl
@[simp] theorem State.emit_debugOut (v : Word) (s : State) : (s.emit v).debugOut = s.debugOut ++ [v] := rfl
@[simp] theorem State.emit_slot (v : Word) (s : State) (j : Nat) : (s.emit v).slot j = s.slot j := rfl
@[simp] theorem State.emit_record (v : Word) (s : State) (j : Nat) : (s.emit v).record j = s.record j := rfl

@[simp] theorem State.setErr_params (e : ErrorKind) (s : State) : (s.setErr e).params = s.params := rfl
@[simp] theorem State.setErr_stack (e : ErrorKind) (s : State) : (s.setErr e).stack = s.stack := rfl
@[simp] theorem State.setErr_sp (e : ErrorKind) (s : State) : (s.setErr e).sp = s.sp := rfl
@[simp] theorem State.setErr_ip (e : ErrorKind) (s : State) : (s.setErr e).ip = s.ip := rfl
@[simp] theorem State.setErr_prog (e : ErrorKind) (s : State) : (s.setErr e).prog = s.prog := rfl
@[simp] theorem State.setErr_plen (e : ErrorKind) (s : State) : (s.setErr e).plen = s.plen := rfl
@[simp] theorem State.setErr_halted (e : ErrorKind) (s : State) : (s.setErr e).halted = s.halted := rfl
@[simp] theorem State.setErr_err (e : ErrorKind) (s : State) : (s.setErr e).err = e := rfl
@[simp] theorem State.setErr_runState (e : ErrorKind) (s : State) : (s.setErr e).runState = s.runState := rfl
@[simp] theorem State.setErr_runSteps (e : ErrorKind) (s : State) : (s.setErr e).runSteps = s.runSteps := rfl
@[simp] theorem State.setErr_loadStatus (e : ErrorKind) (s : State) : (s.setErr e).loadStatus = s.loadStatus := rfl
@[simp] theorem State.setErr_debugOut (e : ErrorKind) (s : State) : (s.setErr e).debugOut = s.debugOut := rfl
@[simp] theorem State.setErr_slot (e : ErrorKind) (s : State) (j : Nat) : (s.setErr e).slot j = s.slot j := rfl
@[simp] theorem State.setErr_record (e : ErrorKind) (s : State) (j : Nat) : (s.setErr e).record j = s.record j := rfl

@[simp] theorem State.setHalted_params (s : State) : (s.setHalted).params = s.params := rfl
@[simp] theorem State.setHalted_stack (s : State) : (s.setHalted).stack = s.stack := rfl
@[simp] theorem State.setHalted_sp (s : State) : (s.setHalted).sp = s.sp := rfl
@[simp] theorem State.setHalted_ip (s : State) : (s.setHalted).ip = s.ip := rfl
@[simp] theorem State.setHalted_prog (s : State) : (s.setHalted).prog = s.prog := rfl
@[simp] theorem State.setHalted_plen (s : State) : (s.setHalted).plen = s.plen := rfl
@[simp] theorem State.setHalted_halted (s : State) : (s.setHalted).halted = true := rfl
@[simp] theorem State.setHalted_err (s : State) : (s.setHalted).err = s.err := rfl
@[simp] theorem State.setHalted_runState (s : State) : (s.setHalted).runState = s.runState := rfl
@[simp] theorem State.setHalted_runSteps (s : State) : (s.setHalted).runSteps = s.runSteps := rfl
@[simp] theorem State.setHalted_loadStatus (s : State) : (s.setHalted).loadStatus = s.loadStatus := rfl
@[simp] theorem State.setHalted_debugOut (s : State) : (s.setHalted).debugOut = s.debugOut := rfl
@[simp] theorem State.setHalted_slot (s : State) (j : Nat) : (s.setHalted).slot j = s.slot j := rfl
@[simp] theorem State.setHalted_record (s : State) (j : Nat) : (s.setHalted).record j = s.record j := rfl

@[simp] theorem State.setLoadStatus_params (l : LoadStatus) (s : State) : (s.setLoadStatus l).params = s.params := rfl
@[simp] theorem State.setLoadStatus_stack (l : LoadStatus) (s : State) : (s.setLoadStatus l).stack = s.stack := rfl
@[simp] theorem State.setLoadStatus_sp (l : LoadStatus) (s : State) : (s.setLoadStatus l).sp = s.sp := rfl
@[simp] theorem State.setLoadStatus_ip (l : LoadStatus) (s : State) : (s.setLoadStatus l).ip = s.ip := rfl
@[simp] theorem State.setLoadStatus_prog (l : LoadStatus) (s : State) : (s.setLoadStatus l).prog = s.prog := rfl
@[simp] theorem State.setLoadStatus_plen (l : LoadStatus) (s : State) : (s.setLoadStatus l).plen = s.plen := rfl
@[simp] theorem State.setLoadStatus_halted (l : LoadStatus) (s : State) : (s.setLoadStatus l).halted = s.halted := rfl
@[simp] theorem State.setLoadStatus_err (l : LoadStatus) (s : State) : (s.setLoadStatus l).err = s.err := rfl
@[simp] theorem State.setLoadStatus_runState (l : LoadStatus) (s : State) : (s.setLoadStatus l).runState = s.runState := rfl
@[simp] theorem State.setLoadStatus_runSteps (l : LoadStatus) (s : State) : (s.setLoadStatus l).runSteps = s.runSteps := rfl
@[simp] theorem State.setLoadStatus_loadStatus (l : LoadStatus) (s : State) : (s.setLoadStatus l).loadStatus = l := rfl
@[simp] theorem State.setLoadStatus_debugOut (l : LoadStatus) (s : State) : (s.setLoadStatus l).debugOut = s.debugOut := rfl
@[simp] theorem State.setLoadStatus_slot (l : LoadStatus) (s : State) (j : Nat) : (s.setLoadStatus l).slot j = s.slot j := rfl
@[simp] theorem State.setLoadStatus_record (l : LoadStatus) (s : State) (j : Nat) : (s.setLoadStatus l).record j = s.record j := rfl

@[simp] theorem State.storeProgram_params (rs : List Record) (s : State) : (s.storeProgram rs).params = s.params := rfl
@[simp] theorem State.storeProgram_stack (rs : List Record) (s : State) : (s.storeProgram rs).stack = s.stack := rfl
@[simp] theorem State.storeProgram_sp (rs : List Record) (s : State) : (s.storeProgram rs).sp = s.sp := rfl
@[simp] theorem State.storeProgram_ip (rs : List Record) (s : State) : (s.storeProgram rs).ip = s.ip := rfl
@[simp] theorem State.storeProgram_prog (rs : List Record) (s : State) : (s.storeProgram rs).prog = s.prog.writeList State.unwrittenRecord 0 rs := rfl
@[simp] theorem State.storeProgram_plen (rs : List Record) (s : State) : (s.storeProgram rs).plen = rs.length := rfl
@[simp] theorem State.storeProgram_halted (rs : List Record) (s : State) : (s.storeProgram rs).halted = s.halted := rfl
@[simp] theorem State.storeProgram_err (rs : List Record) (s : State) : (s.storeProgram rs).err = s.err := rfl
@[simp] theorem State.storeProgram_runState (rs : List Record) (s : State) : (s.storeProgram rs).runState = s.runState := rfl
@[simp] theorem State.storeProgram_runSteps (rs : List Record) (s : State) : (s.storeProgram rs).runSteps = s.runSteps := rfl
@[simp] theorem State.storeProgram_loadStatus (rs : List Record) (s : State) : (s.storeProgram rs).loadStatus = s.loadStatus := rfl
@[simp] theorem State.storeProgram_debugOut (rs : List Record) (s : State) : (s.storeProgram rs).debugOut = s.debugOut := rfl
@[simp] theorem State.storeProgram_slot (rs : List Record) (s : State) (j : Nat) : (s.storeProgram rs).slot j = s.slot j := rfl

@[simp] theorem State.clearExecution_params (s : State) : (s.clearExecution).params = s.params := rfl
@[simp] theorem State.clearExecution_stack (s : State) : (s.clearExecution).stack = s.stack := rfl
@[simp] theorem State.clearExecution_sp (s : State) : (s.clearExecution).sp = 0 := rfl
@[simp] theorem State.clearExecution_ip (s : State) : (s.clearExecution).ip = 0#64 := rfl
@[simp] theorem State.clearExecution_prog (s : State) : (s.clearExecution).prog = s.prog := rfl
@[simp] theorem State.clearExecution_plen (s : State) : (s.clearExecution).plen = s.plen := rfl
@[simp] theorem State.clearExecution_halted (s : State) : (s.clearExecution).halted = false := rfl
@[simp] theorem State.clearExecution_err (s : State) : (s.clearExecution).err = .ok := rfl
@[simp] theorem State.clearExecution_runState (s : State) : (s.clearExecution).runState = .ready := rfl
@[simp] theorem State.clearExecution_runSteps (s : State) : (s.clearExecution).runSteps = 0 := rfl
@[simp] theorem State.clearExecution_loadStatus (s : State) : (s.clearExecution).loadStatus = s.loadStatus := rfl
@[simp] theorem State.clearExecution_debugOut (s : State) : (s.clearExecution).debugOut = s.debugOut := rfl
@[simp] theorem State.clearExecution_slot (s : State) (j : Nat) : (s.clearExecution).slot j = s.slot j := rfl
@[simp] theorem State.clearExecution_record (s : State) (j : Nat) : (s.clearExecution).record j = s.record j := rfl

@[simp] theorem State.setRunState_params (r : RunState) (s : State) : (s.setRunState r).params = s.params := rfl
@[simp] theorem State.setRunState_stack (r : RunState) (s : State) : (s.setRunState r).stack = s.stack := rfl
@[simp] theorem State.setRunState_sp (r : RunState) (s : State) : (s.setRunState r).sp = s.sp := rfl
@[simp] theorem State.setRunState_ip (r : RunState) (s : State) : (s.setRunState r).ip = s.ip := rfl
@[simp] theorem State.setRunState_prog (r : RunState) (s : State) : (s.setRunState r).prog = s.prog := rfl
@[simp] theorem State.setRunState_plen (r : RunState) (s : State) : (s.setRunState r).plen = s.plen := rfl
@[simp] theorem State.setRunState_halted (r : RunState) (s : State) : (s.setRunState r).halted = s.halted := rfl
@[simp] theorem State.setRunState_err (r : RunState) (s : State) : (s.setRunState r).err = s.err := rfl
@[simp] theorem State.setRunState_runState (r : RunState) (s : State) : (s.setRunState r).runState = r := rfl
@[simp] theorem State.setRunState_runSteps (r : RunState) (s : State) : (s.setRunState r).runSteps = s.runSteps := rfl
@[simp] theorem State.setRunState_loadStatus (r : RunState) (s : State) : (s.setRunState r).loadStatus = s.loadStatus := rfl
@[simp] theorem State.setRunState_debugOut (r : RunState) (s : State) : (s.setRunState r).debugOut = s.debugOut := rfl
@[simp] theorem State.setRunState_slot (r : RunState) (s : State) (j : Nat) : (s.setRunState r).slot j = s.slot j := rfl
@[simp] theorem State.setRunState_record (r : RunState) (s : State) (j : Nat) : (s.setRunState r).record j = s.record j := rfl

@[simp] theorem State.countStep_params (s : State) : (s.countStep).params = s.params := rfl
@[simp] theorem State.countStep_stack (s : State) : (s.countStep).stack = s.stack := rfl
@[simp] theorem State.countStep_sp (s : State) : (s.countStep).sp = s.sp := rfl
@[simp] theorem State.countStep_ip (s : State) : (s.countStep).ip = s.ip := rfl
@[simp] theorem State.countStep_prog (s : State) : (s.countStep).prog = s.prog := rfl
@[simp] theorem State.countStep_plen (s : State) : (s.countStep).plen = s.plen := rfl
@[simp] theorem State.countStep_halted (s : State) : (s.countStep).halted = s.halted := rfl
@[simp] theorem State.countStep_err (s : State) : (s.countStep).err = s.err := rfl
@[simp] theorem State.countStep_runState (s : State) : (s.countStep).runState = s.runState := rfl
@[simp] theorem State.countStep_runSteps (s : State) : (s.countStep).runSteps = s.runSteps + 1 := rfl
@[simp] theorem State.countStep_loadStatus (s : State) : (s.countStep).loadStatus = s.loadStatus := rfl
@[simp] theorem State.countStep_debugOut (s : State) : (s.countStep).debugOut = s.debugOut := rfl
@[simp] theorem State.countStep_slot (s : State) (j : Nat) : (s.countStep).slot j = s.slot j := rfl
@[simp] theorem State.countStep_record (s : State) (j : Nat) : (s.countStep).record j = s.record j := rfl

@[simp] theorem State.beginRun_params (s : State) : (s.beginRun).params = s.params := rfl
@[simp] theorem State.beginRun_stack (s : State) : (s.beginRun).stack = s.stack := rfl
@[simp] theorem State.beginRun_sp (s : State) : (s.beginRun).sp = s.sp := rfl
@[simp] theorem State.beginRun_ip (s : State) : (s.beginRun).ip = s.ip := rfl
@[simp] theorem State.beginRun_prog (s : State) : (s.beginRun).prog = s.prog := rfl
@[simp] theorem State.beginRun_plen (s : State) : (s.beginRun).plen = s.plen := rfl
@[simp] theorem State.beginRun_halted (s : State) : (s.beginRun).halted = s.halted := rfl
@[simp] theorem State.beginRun_err (s : State) : (s.beginRun).err = s.err := rfl
@[simp] theorem State.beginRun_runState (s : State) : (s.beginRun).runState = .running := rfl
@[simp] theorem State.beginRun_runSteps (s : State) : (s.beginRun).runSteps = 0 := rfl
@[simp] theorem State.beginRun_loadStatus (s : State) : (s.beginRun).loadStatus = s.loadStatus := rfl
@[simp] theorem State.beginRun_debugOut (s : State) : (s.beginRun).debugOut = s.debugOut := rfl
@[simp] theorem State.beginRun_slot (s : State) (j : Nat) : (s.beginRun).slot j = s.slot j := rfl
@[simp] theorem State.beginRun_record (s : State) (j : Nat) : (s.beginRun).record j = s.record j := rfl

@[simp] theorem State.placeNext_params (r : Record) (s : State) : (s.placeNext r).params = s.params := rfl
@[simp] theorem State.placeNext_stack (r : Record) (s : State) : (s.placeNext r).stack = s.stack := rfl
@[simp] theorem State.placeNext_sp (r : Record) (s : State) : (s.placeNext r).sp = s.sp := rfl
@[simp] theorem State.placeNext_ip (r : Record) (s : State) : (s.placeNext r).ip = BitVec.ofNat 64 s.nextSlot := rfl
@[simp] theorem State.placeNext_prog (r : Record) (s : State) : (s.placeNext r).prog = s.prog.write State.unwrittenRecord s.nextSlot r := rfl
@[simp] theorem State.placeNext_plen (r : Record) (s : State) : (s.placeNext r).plen = max s.plen (s.nextSlot + 1) := rfl
@[simp] theorem State.placeNext_halted (r : Record) (s : State) : (s.placeNext r).halted = false := rfl
@[simp] theorem State.placeNext_err (r : Record) (s : State) : (s.placeNext r).err = .ok := rfl
@[simp] theorem State.placeNext_runState (r : Record) (s : State) : (s.placeNext r).runState = s.runState := rfl
@[simp] theorem State.placeNext_runSteps (r : Record) (s : State) : (s.placeNext r).runSteps = s.runSteps := rfl
@[simp] theorem State.placeNext_loadStatus (r : Record) (s : State) : (s.placeNext r).loadStatus = s.loadStatus := rfl
@[simp] theorem State.placeNext_debugOut (r : Record) (s : State) : (s.placeNext r).debugOut = s.debugOut := rfl
@[simp] theorem State.placeNext_slot (r : Record) (s : State) (j : Nat) : (s.placeNext r).slot j = s.slot j := rfl

/-- After `S[i] <- v`, slot `i` holds `v` and every other slot what it held. -/
theorem State.setSlot_slot (i : Nat) (v : Word) (s : State) (j : Nat) :
    (s.setSlot i v).slot j = if j = i then v else s.slot j :=
  Memory.read_write s.stack i j v

/-- After a push, slot `sp` holds the value and every other slot what it held. -/
theorem State.push_slot (v : Word) (s : State) (j : Nat) :
    (s.push v).slot j = if j = s.sp then v else s.slot j :=
  Memory.read_write s.stack s.sp j v

@[simp] theorem State.push_slot_self (v : Word) (s : State) : (s.push v).slot s.sp = v :=
  Memory.read_write_self s.stack s.sp v

theorem State.push_slot_ne (v : Word) (s : State) {j : Nat} (h : j ≠ s.sp) : (s.push v).slot j = s.slot j :=
  Memory.read_write_ne s.stack h v

@[simp] theorem State.pop_fst (s : State) : s.pop.1 = s.slot (s.sp - 1) := rfl

@[simp] theorem State.pop_snd (s : State) : s.pop.2 = s.setSp (s.sp - 1) := rfl

/-- After a program is stored, its records stand from slot 0 on and the slots above keep what they held. -/
theorem State.storeProgram_record (rs : List Record) (s : State) (j : Nat) :
    (s.storeProgram rs).record j = rs.getD j (s.record j) :=
  (Memory.read_writeList rs s.prog 0 j).trans (by simp [State.record])

/-- A placed record stands in the slot the next step fetches, and no other slot of the program changes. -/
theorem State.placeNext_record (r : Record) (s : State) (j : Nat) :
    (s.placeNext r).record j = if j = s.nextSlot then r else s.record j :=
  Memory.read_write s.prog s.nextSlot j r

end Sys2Proof.Machine
end

