-- ==== Sys2Proof/Laws/Exec.lean ====
section
/-! SUPPORT. What each shared operation and each part of the step can do, said once. -/

namespace Sys2Proof.Machine

@[simp] theorem raise_eq (e : ErrorKind) (s : State) : raise e s = .next (s.setErr e) := rfl

theorem setErr_eq (e : ErrorKind) (s : State) : s.setErr e = { s with err := e } := rfl

/-- A binary operation on fewer than two entries raises STACK_UNDERFLOW. -/
theorem binary_of_short {s : State} (h : s.sp < 2) (f : Word → Word → Word) :
    binary f s = .next (s.setErr .stackUnderflow) := by simp [binary, h]

/-- A binary operation on two entries replaces them by its result. -/
theorem binary_of_ready {s : State} (h : 2 ≤ s.sp) (f : Word → Word → Word) :
    binary f s = .next (((s.setSp (s.sp - 2)).push (f (s.slot (s.sp - 2)) (s.slot (s.sp - 1)))).advance) := by
  have h1 : ¬ s.sp < 2 := by omega
  have h2 : s.sp - 1 - 1 = s.sp - 2 := by omega
  simp only [binary, h1, ↓reduceIte, State.pop, State.setSp_slot, State.setSp_sp, h2]
  rfl

/-- The state a binary operation on two entries answers has the effect of 42_alu.md R75. -/
theorem binary_effect {s : State} (h : 2 ≤ s.sp) (f : Word → Word → Word) :
    ∃ t, binary f s = .next t ∧ BinaryEffect f s t := by
  refine ⟨_, binary_of_ready h f, ?_⟩
  constructor
  case toOnlyStackAndIp => constructor <;> first | rfl | (constructor <;> rfl)
  case sp => simp only [State.advance_sp, State.push_sp, State.setSp_sp]; omega
  case result => simp [State.push_slot]
  case others => intro j hj; simp [State.push_slot, hj]
  case ip => simp

/-- The step stops in a terminal state and only there. -/
theorem terminalStop_eq_none {s : State} : terminalStop s = none ↔ ¬ s.Terminal := by
  unfold terminalStop State.Terminal
  cases s.halted <;> by_cases h : s.err = .ok <;> simp [h]

/-- A state that is not terminal is neither halted nor failed. -/
theorem not_terminal_iff {s : State} : ¬ s.Terminal ↔ s.halted = false ∧ s.err = .ok := by
  unfold State.Terminal
  cases s.halted <;> simp

/-- A step of a core that is not terminal is the decoded instruction's meaning, or the error of the fetch. -/
theorem step_of_not_terminal {s : State} (h : ¬ s.Terminal) :
    step s = match fetchDecode s with
      | .ok i => exec i s
      | .error e => .next (s.setErr e) := by
  unfold step
  rw [terminalStop_eq_none.mpr h]
  rfl

/-- A terminal state's step answers no next state. -/
theorem step_ne_next_of_terminal {s : State} (h : s.Terminal) (t : State) : step s ≠ .next t := by
  unfold step terminalStop
  by_cases hh : s.halted = true
  · simp [hh]
  · have he : s.err ≠ .ok := h.resolve_left hh
    simp [hh, he]

/-- Only a core that is not terminal answers a next state. -/
theorem not_terminal_of_step {s t : State} (h : step s = .next t) : ¬ s.Terminal :=
  fun ht => step_ne_next_of_terminal ht t h

/-- The fetch errs on bounds and on an illegal tag, with these two kinds and no other. -/
theorem fetchDecode_error {s : State} {e : ErrorKind} (h : fetchDecode s = .error e) :
    (s.ipInBounds = false ∧ e = .illegalInstAccess) ∨
      (s.ipInBounds = true ∧ e = .illegalInstruction ∧ ∃ d, decodeRecord s.fetched = .error d) := by
  unfold fetchDecode at h
  split at h
  · next hb =>
    cases hd : decodeRecord s.fetched with
    | ok i => simp [hd] at h
    | error d => simp only [hd, Except.error.injEq] at h; exact .inr ⟨hb, h.symm, d, rfl⟩
  · next hb => simp only [Except.error.injEq] at h; exact .inl ⟨by simpa using hb, h.symm⟩

/-- An instruction is fetched only within bounds, from the record `ip` names. -/
theorem fetchDecode_ok {s : State} {i : Instr} :
    fetchDecode s = .ok i ↔ s.ipInBounds = true ∧ decodeRecord s.fetched = .ok i := by
  unfold fetchDecode
  cases s.ipInBounds <;> cases decodeRecord s.fetched <;> simp

theorem ipInBounds_iff {s : State} : s.ipInBounds = true ↔ 0 ≤ s.ip.toInt ∧ s.ip.toInt < s.plen := by
  simp [State.ipInBounds]

/-- What a step that answers a next state has done: the core was not terminal, and the fetch erred or an instruction
ran. -/
theorem step_cases {s t : State} (h : step s = .next t) :
    s.halted = false ∧ s.err = .ok ∧
      ((∃ e, e ≠ .ok ∧ fetchDecode s = .error e ∧ t = s.setErr e) ∨
        ∃ i, fetchDecode s = .ok i ∧ exec i s = .next t) := by
  have hn := not_terminal_of_step h
  obtain ⟨h1, h2⟩ := not_terminal_iff.mp hn
  refine ⟨h1, h2, ?_⟩
  rw [step_of_not_terminal hn] at h
  cases hf : fetchDecode s with
  | ok i => rw [hf] at h; exact .inr ⟨i, rfl, h⟩
  | error e =>
    rw [hf] at h
    cases h
    refine .inl ⟨e, ?_, rfl, rfl⟩
    rcases fetchDecode_error hf with ⟨-, rfl⟩ | ⟨-, rfl, -⟩ <;> decide

/-- The slot a placed record goes to is a Word's non-negative value. -/
theorem nextSlot_lt (s : State) : s.nextSlot < 2 ^ 63 := by
  unfold State.nextSlot
  split
  · have := BitVec.toInt_lt (x := s.ip); norm_num at this ⊢; omega
  · norm_num

/-- The step after an instruction's word is placed fetches and runs exactly that instruction. -/
theorem step_withFetchWord {s : State} {nbits w : Nat} {i : Instr} (h : decodeTableWord nbits w = some i) :
    step (s.withFetchWord nbits w) = exec i (s.withFetchWord nbits w) := by
  have hlt := nextSlot_lt s
  have hip : (BitVec.ofNat 64 s.nextSlot).toInt = s.nextSlot := by
    rw [BitVec.toInt_ofNat', Int.bmod_def]
    norm_num at hlt ⊢
    rw [if_pos] <;> omega
  have hd : decodeRecord (recordOfTableWord nbits w) = .ok i := by
    unfold decodeTableWord at h
    split at h
    · next j hj => cases h; exact hj
    · cases h
  have hn : ¬ (s.withFetchWord nbits w).Terminal := not_terminal_iff.mpr ⟨rfl, rfl⟩
  rw [step_of_not_terminal hn, fetchDecode_ok.mpr]
  refine ⟨ipInBounds_iff.mpr ?_, ?_⟩
  · simp only [State.withFetchWord, State.placeNext_ip, State.placeNext_plen, hip]; omega
  · simp only [State.fetched, State.withFetchWord, State.placeNext_ip, State.placeNext_record, hip, Int.toNat_natCast,
      ↓reduceIte, hd]

/-- Every instruction either raises an error, which changes `err` alone, or succeeds and leaves `err` as it was. -/
theorem exec_error_or_keeps_err (i : Instr) (s : State) :
    (∃ e, e ≠ .ok ∧ exec i s = .next (s.setErr e)) ∨ ∃ t, exec i s = .next t ∧ t.err = s.err := by
  cases i <;>
    simp only [exec, execNop, execPush, execDup, execPlus, execMinus, execMult, execDiv, execJmp, execEq, execJmpIf,
      execHalt, execPrintDebug, binary, raise_eq] <;>
    (repeat' split) <;>
    first
    | exact .inl ⟨_, by decide, rfl⟩
    | exact .inr ⟨_, rfl, rfl⟩

/-- A run of the host's interface goes on from the state its first step answers. -/
theorem core_run_succ_of_step {s t : State} (h : step s = .next t) (k : Nat) :
    Host.Core.run Sys2Proof.core (k + 1) s = Host.Core.run Sys2Proof.core k t := by
  have : Sys2Proof.core.step s = .next t := h
  simp only [Host.Core.run, this]

/-- STEP in a state whose step answers a next state. -/
theorem stepCommand_of_next {s t : State} (h : step s = .next t) : stepCommand s = (.stepped t.err, t) := by
  simp [stepCommand, h]

/-- STEP in a terminal state is refused and writes nothing. -/
theorem stepCommand_of_terminal {s : State} (h : s.Terminal) : stepCommand s = (.refused, s) := by
  unfold stepCommand
  split
  · next t ht => exact absurd ht (step_ne_next_of_terminal h t)
  · rfl
  · rfl

/-- LOAD_MEM of too many records. -/
theorem loadMem_of_full {s : State} {count : Nat} (h : count ≥ s.params.programCapacity) (instrs : List Record) :
    loadMem instrs count s = s.setLoadStatus .rejected := if_pos h

/-- LOAD_MEM of records the store has room for. -/
theorem loadMem_of_room {s : State} {count : Nat} (h : count < s.params.programCapacity) (instrs : List Record) :
    loadMem instrs count s = (s.storeProgram (firstRecords instrs count)).setLoadStatus .ok := if_neg (by omega)

/-- LOAD_FILE where the host reports a failure. -/
theorem loadFileAs_of_ioError (fmt : Format) (bytes : List Byte) (s : State) :
    loadFileAs fmt bytes false s = s.setLoadStatus .ioError := rfl

/-- LOAD_FILE of an image that is not whole records, or holds too many. -/
theorem loadFileAs_of_unfit {fmt : Format} {bytes : List Byte} {s : State}
    (h : bytes.length % fmt.recordBytes ≠ 0 ∨ bytes.length / fmt.recordBytes > s.params.programCapacity) :
    loadFileAs fmt bytes true s = s.setLoadStatus .rejected := by
  unfold loadFileAs
  rw [if_neg (by decide)]
  split
  · rfl
  · next h1 => rw [if_pos (h.resolve_left h1)]

/-- LOAD_FILE of whole records the store has room for. -/
theorem loadFileAs_of_fit {fmt : Format} {bytes : List Byte} {s : State}
    (h : bytes.length % fmt.recordBytes = 0) (h' : bytes.length / fmt.recordBytes ≤ s.params.programCapacity) :
    loadFileAs fmt bytes true s =
      (s.storeProgram (recordsOfImage fmt (bytes.length / fmt.recordBytes) bytes)).setLoadStatus .ok := by
  unfold loadFileAs
  rw [if_neg (by decide), if_neg (by omega), if_neg (by omega)]

/-- The run controller's tests let the core step exactly where it is not terminal. -/
theorem runVerdict_eq_none {s : State} : runVerdict s = none ↔ ¬ s.Terminal := by
  unfold runVerdict State.Terminal
  cases s.halted <;> by_cases h : s.err = .ok <;> simp [h]

end Sys2Proof.Machine
end

