-- ==== Sys2Proof/Laws/PerInstr.lean ====
section
/-! SUPPORT. The laws said per instruction. -/

namespace Sys2Proof.Laws.TagTable

/-- The instruction's record has a legal tag and decodes to the instruction, whatever its operand (30_encoding.md R52,
R53, R57). -/
def Statement (i : Instr) : Prop := i.wellFormed = true ∧ i.encode.legal = true ∧ decodeRecord i.encode = .ok i

theorem nop (o : Word) : Statement (.nop o) := ⟨rfl, rfl, rfl⟩
theorem push (v : Word) : Statement (.push v) := ⟨rfl, rfl, rfl⟩
theorem dup (k : Word) : Statement (.dup k) := ⟨rfl, rfl, rfl⟩
theorem plus (o : Word) : Statement (.plus o) := ⟨rfl, rfl, rfl⟩
theorem minus (o : Word) : Statement (.minus o) := ⟨rfl, rfl, rfl⟩
theorem mult (o : Word) : Statement (.mult o) := ⟨rfl, rfl, rfl⟩
theorem div (o : Word) : Statement (.div o) := ⟨rfl, rfl, rfl⟩
theorem jmp (t : Word) : Statement (.jmp t) := ⟨rfl, rfl, rfl⟩
theorem eq (o : Word) : Statement (.eq o) := ⟨rfl, rfl, rfl⟩
theorem jmpIf (t : Word) : Statement (.jmpIf t) := ⟨rfl, rfl, rfl⟩
theorem halt (o : Word) : Statement (.halt o) := ⟨rfl, rfl, rfl⟩
theorem printDebug (o : Word) : Statement (.printDebug o) := ⟨rfl, rfl, rfl⟩

end Sys2Proof.Laws.TagTable
end

