-- ==== Sys2Proof/Tests/Slice0.lean ====
section
/-! SUPPORT. Tests. Expected results come from spec/95_test_vectors.md, whose row each name or comment cites, and
from the encodings of 30_encoding.md. Then the witnesses: for every statement with hypotheses, a concrete state and
operands that meet them, at a boundary value of each clause. -/

namespace Sys2Proof.Tests

open Sys2Proof.Machine

/-! Well-formedness: an ill-formed term for each check. -/

theorem test_wellFormed_any_operand : (Instr.nop 42#64).wellFormed = true := by decide
theorem test_conventional_refuses_operand : (Instr.nop 42#64).conventional = false := by decide
theorem test_legal_refuses_tag_12 : (Record.mk 12#64 0#64).legal = false := by decide
theorem test_legal_accepts_tag_11 : (Record.mk 11#64 5#64).legal = true := by decide
theorem test_fits_refuses_wide_tag : (Record.mk 0x100000000#64 0#64).fits ⟨.four, .little⟩ = false := by decide
theorem test_programFits_refuses_1025 : programFits Config.params (List.replicate 1025 ⟨0#64, 0#64⟩) = false := by
  simp only [programFits, List.length_replicate]; decide
theorem test_params_refuse_empty_stack : Params.wellFormed ⟨0, 1, ⟨.eight, .little⟩, 69⟩ = false := by decide
theorem test_params_refuse_empty_program : Params.wellFormed ⟨1, 0, ⟨.eight, .little⟩, 69⟩ = false := by decide
/-- The values of R6. -/
theorem test_default_params : Config.params = ⟨1024, 1024, ⟨.eight, .little⟩, 69⟩ ∧ Config.params.wellFormed = true := by
  decide
/-- L-2 -/
theorem test_imageFits_refuses_17_bytes : imageFits Config.params (List.replicate 17 0#8) = false := by decide
/-- L-4 -/
theorem test_imageFits_refuses_1025_records : imageFits Config.params (List.replicate (1025 * 16) 0#8) = false := by
  simp only [imageFits, List.length_replicate]; decide

/-! Decoding: each constructor by a word written out from the tag table of R52 (operand in bits 127..64). -/

theorem test_decode_nop : decodeTableWord 128 0x000000000000002a0000000000000000 = some (.nop 42#64) := by decide
theorem test_decode_push : decodeTableWord 128 0xfffffffffffffff90000000000000001 = some (.push (-7#64)) := by decide
theorem test_decode_dup : decodeTableWord 128 0x00000000000000010000000000000002 = some (.dup 1#64) := by decide
theorem test_decode_plus : decodeTableWord 128 0x00000000000000000000000000000003 = some (.plus 0#64) := by decide
theorem test_decode_minus : decodeTableWord 128 0x00000000000000000000000000000004 = some (.minus 0#64) := by decide
theorem test_decode_mult : decodeTableWord 128 0x00000000000000000000000000000005 = some (.mult 0#64) := by decide
theorem test_decode_div : decodeTableWord 128 0x00000000000000000000000000000006 = some (.div 0#64) := by decide
theorem test_decode_jmp : decodeTableWord 128 0x00000000000000020000000000000007 = some (.jmp 2#64) := by decide
theorem test_decode_eq : decodeTableWord 128 0x00000000000000000000000000000008 = some (.eq 0#64) := by decide
theorem test_decode_jmpIf : decodeTableWord 128 0xffffffffffffffff0000000000000009 = some (.jmpIf (-1#64)) := by decide
theorem test_decode_halt : decodeTableWord 128 0x0000000000000000000000000000000a = some (.halt 0#64) := by decide
theorem test_decode_printDebug : decodeTableWord 128 0x0000000000000005000000000000000b = some (.printDebug 5#64) := by decide
/-- D-3, D-4 -/
theorem test_decode_illegal : decodeTableWord 128 12 = none ∧ decodeTableWord 128 0xffffffffffffffff = none := by decide
/-- The record of PUSH(3) in the three formats 95_test_vectors.md writes out (§2.7). -/
theorem test_bytes_formats :
    (Instr.push 3#64).bytes ⟨.eight, .little⟩ = [1, 0, 0, 0, 0, 0, 0, 0, 3, 0, 0, 0, 0, 0, 0, 0] ∧
    (Instr.push 3#64).bytes ⟨.four, .little⟩ = [1, 0, 0, 0, 3, 0, 0, 0, 0, 0, 0, 0] ∧
    (Instr.push 3#64).bytes ⟨.eight, .big⟩ = [0, 0, 0, 0, 0, 0, 0, 1, 0, 0, 0, 0, 0, 0, 0, 3] := by decide
/-- P2, slot 7 and P3, slot 0 -/
theorem test_record_of_bytes :
    Record.ofBytes Config.format [0x0a, 0, 0, 0, 0, 0, 0, 0, 0, 0, 0, 0, 0, 0, 0, 0] = ⟨10#64, 0#64⟩ ∧
    Record.ofBytes Config.format [1, 0, 0, 0, 0, 0, 0, 0, 0xf9, 0xff, 0xff, 0xff, 0xff, 0xff, 0xff, 0xff] = ⟨1#64, -7#64⟩ := by
  decide

/-! Instructions, one step each. -/

/-- A core with this `ip` and this stack, bottom first. -/
def coreAt (ip : Word) (vs : List Word) : State := vs.foldl (fun s v => s.push v) { State.reset with ip := ip }

/-- A core with a full stack of zeros. -/
def full : State := { State.reset with sp := Config.stackCapacity }

/-- `ip`, the live stack and `err` of a next state. -/
def seen : Outcome → Option (Word × List Word × ErrorKind)
  | .next t => some (t.ip, (observe t).stack, t.err)
  | _ => none

/-- `sp` and `err` of a next state. -/
def seenSp : Outcome → Option (Nat × ErrorKind)
  | .next t => some (t.sp, t.err)
  | _ => none

/-- K-1 -/
theorem test_nop : seen (exec (.nop 7#64) (coreAt 4 [9])) = some (5, [9], .ok) := by decide
/-- K-3 -/
theorem test_push_min : seen (exec (.push minWord) (coreAt 0 [])) = some (1, [minWord], .ok) := by decide
/-- K-4, K-5 -/
theorem test_push_capacity : seenSp (exec (.push 7) { full with sp := 1023 }) = some (1024, .ok) ∧
    seenSp (exec (.push 7) full) = some (1024, .stackOverflow) := by decide
/-- A machine with room for one Word and two records, in the 4-byte big-endian format (R6, R65, R66, R70). -/
def small : State := State.resetWith ⟨1, 2, ⟨.four, .big⟩, 0⟩

/-- R70 and R71 at `STACK_CAPACITY = 1` -/
theorem test_small_stack : seenSp (exec (.push 7) small) = some (1, .ok) ∧
    seenSp (exec (.push 7) (small.push 7)) = some (1, .stackOverflow) ∧
    seenSp (exec (.dup 0) (small.push 7)) = some (1, .stackOverflow) := by decide
/-- R65 and R66 at `PROGRAM_CAPACITY = 2`, with 12-byte records -/
theorem test_small_program : (loadFile (List.replicate 24 0) true small).plen = 2 ∧
    (loadFile (List.replicate 36 0) true small).loadStatus = .rejected ∧
    (loadFile (List.replicate 32 0) true small).loadStatus = .rejected ∧
    (loadMem [⟨10, 0⟩, ⟨10, 0⟩] 2 small).loadStatus = .rejected ∧
    (loadMem [⟨10, 0⟩] 1 small).loadStatus = .ok := by decide
/-- §2.7: SAVE of PUSH(3) in the machine's own format, 12-byte records -/
theorem test_small_save :
    save [⟨1, 3⟩] 1 { small with params.format.byteOrder := .little } = [1, 0, 0, 0, 3, 0, 0, 0, 0, 0, 0, 0] := by decide
/-- K-8, K-9, K-11, K-16 -/
theorem test_dup : seen (exec (.dup 2) (coreAt 0 [4, 5, 6])) = some (1, [4, 5, 6, 4], .ok) ∧
    seen (exec (.dup 3) (coreAt 0 [4, 5, 6])) = some (0, [4, 5, 6], .stackUnderflow) ∧
    seen (exec (.dup (-1)) (coreAt 0 [4])) = some (0, [4], .illegalOperand) ∧
    seen (exec (.dup maxWord) (coreAt 0 [7])) = some (0, [7], .stackUnderflow) := by decide
/-- K-13, K-14, K-15 -/
theorem test_dup_full : seenSp (exec (.dup 0) full) = some (1024, .stackOverflow) ∧
    seenSp (exec (.dup 1024) full) = some (1024, .stackUnderflow) ∧
    seenSp (exec (.dup (-5)) full) = some (1024, .illegalOperand) := by decide
/-- A-2, A-3, A-36 -/
theorem test_plus : seen (exec (.plus 0) (coreAt 0 [maxWord, 1])) = some (1, [minWord], .ok) ∧
    seen (exec (.plus 0) (coreAt 0 [minWord, -1])) = some (1, [maxWord], .ok) ∧
    seen (exec (.plus 0) (coreAt 0 [])) = some (0, [], .stackUnderflow) := by decide
/-- A-6, A-8, A-37 -/
theorem test_minus : seen (exec (.minus 0) (coreAt 0 [3, 4])) = some (1, [-1], .ok) ∧
    seen (exec (.minus 0) (coreAt 0 [0, minWord])) = some (1, [minWord], .ok) ∧
    seen (exec (.minus 0) (coreAt 0 [3])) = some (0, [3], .stackUnderflow) := by decide
/-- A-12, A-13, A-14, A-15 -/
theorem test_mult : seen (exec (.mult 0) (coreAt 0 [4294967296, 4294967296])) = some (1, [0], .ok) ∧
    seen (exec (.mult 0) (coreAt 0 [minWord, -1])) = some (1, [minWord], .ok) ∧
    seen (exec (.mult 0) (coreAt 0 [maxWord, 2])) = some (1, [-2], .ok) ∧
    seen (exec (.mult 0) (coreAt 0 [-3, 4])) = some (1, [-12], .ok) := by decide
/-- A-20, A-21, A-23, A-29 -/
theorem test_div : seen (exec (.div 0) (coreAt 0 [-7, 2])) = some (1, [-3], .ok) ∧
    seen (exec (.div 0) (coreAt 0 [7, -2])) = some (1, [-3], .ok) ∧
    seen (exec (.div 0) (coreAt 0 [minWord, -1])) = some (1, [minWord], .ok) ∧
    seen (exec (.div 0) (coreAt 0 [maxWord, -1])) = some (1, [-9223372036854775807], .ok) := by decide
/-- A-40, A-42, A-44, A-45 -/
theorem test_div_errors : seen (exec (.div 0) (coreAt 2 [10, 0])) = some (2, [10, 0], .divByZero) ∧
    seen (exec (.div 0) (coreAt 0 [0])) = some (0, [0], .stackUnderflow) ∧
    seen (exec (.div 0) (coreAt 0 [0, 5, 0])) = some (0, [0, 5, 0], .divByZero) ∧
    seen (exec (.div 0) (coreAt 0 [0, 5])) = some (1, [0], .ok) := by decide
/-- A-31, A-34, A-35 -/
theorem test_eq : seen (exec (.eq 0) (coreAt 0 [5, 5])) = some (1, [1], .ok) ∧
    seen (exec (.eq 0) (coreAt 0 [minWord, maxWord])) = some (1, [0], .ok) ∧
    seen (exec (.eq 0) (coreAt 0 [-1, 1])) = some (1, [0], .ok) := by decide
/-- C-1, C-2 -/
theorem test_jmp : seen (exec (.jmp 2) (coreAt 5 [])) = some (2, [], .ok) ∧
    seen (exec (.jmp (-1)) (coreAt 5 [])) = some (-1, [], .ok) := by decide
/-- C-5, C-6, C-8, C-9, C-10 -/
theorem test_jmpIf : seen (exec (.jmpIf 1) (coreAt 5 [7, 1])) = some (1, [7], .ok) ∧
    seen (exec (.jmpIf 1) (coreAt 5 [7, 0])) = some (6, [7], .ok) ∧
    seen (exec (.jmpIf 9) (coreAt 5 [minWord])) = some (9, [], .ok) ∧
    seen (exec (.jmpIf 1) (coreAt 5 [])) = some (5, [], .stackUnderflow) ∧
    seen (exec (.jmpIf 1) (coreAt 5 [1])) = some (1, [], .ok) := by decide
/-- C-12 -/
theorem test_halt : exec (.halt 0) (coreAt 7 [0]) = .next { coreAt 7 [0] with halted := true } := by rfl
/-- P-1, P-3 -/
theorem test_printDebug : seen (exec (.printDebug 0) (coreAt 2 [3, 3])) = some (3, [3], .ok) ∧
    seen (exec (.printDebug 0) (coreAt 0 [])) = some (0, [], .stackUnderflow) := by decide
/-- P-2 -/
theorem test_printDebug_output : exec (.printDebug 0) (coreAt 0 [minWord]) =
    .next { coreAt 0 [minWord] with sp := 0, ip := 1, debugOut := [minWord] } := by rfl

/-! The step cycle and the commands. -/

/-- A core at reset with these records loaded. -/
def loaded (rs : List Record) : State := State.reset.storeProgram rs

/-- D-1, D-2: `ip = 3` and `ip = -1` with three records -/
theorem test_bounds : seen (step { loaded [⟨0, 0⟩, ⟨0, 0⟩, ⟨0, 0⟩] with ip := 3 }) = some (3, [], .illegalInstAccess) ∧
    seen (step { loaded [⟨0, 0⟩, ⟨0, 0⟩, ⟨0, 0⟩] with ip := -1 }) = some (-1, [], .illegalInstAccess) := by decide
/-- D-3, D-5, D-7 -/
theorem test_step : seen (step (loaded [⟨12, 0⟩])) = some (0, [], .illegalInstruction) ∧
    seen (step (loaded [⟨3, 0⟩])) = some (0, [], .stackUnderflow) ∧
    seen (step (loaded [⟨0, 42⟩])) = some (1, [], .ok) := by decide
/-- D-8, D-9 -/
theorem test_refused : stepCommand { State.reset with halted := true, ip := 7 } =
      (.refused, { State.reset with halted := true, ip := 7 }) ∧
    stepCommand { State.reset with err := .divByZero, ip := 2 } =
      (.refused, { State.reset with err := .divByZero, ip := 2 }) := by decide
/-- R-1, R-2, R-6: outcome and `run_steps` -/
theorem test_run : (run 1 (loaded [⟨10, 0⟩])).1 = .halted ∧ (run 1 (loaded [⟨10, 0⟩])).2.runSteps = 1 ∧
    (run 0 (loaded [⟨10, 0⟩])).1 = .budgetExceeded ∧ (run 0 (loaded [⟨10, 0⟩])).2.runSteps = 0 ∧
    (run 10 (loaded [⟨3, 0⟩])).1 = .failed .stackUnderflow ∧ (run 10 (loaded [⟨3, 0⟩])).2.runSteps = 1 := by decide
/-- R108: the reference driver's budget is `DEFAULT_FUEL`; R118 from reset; a one-record loop uses all of it (R103). -/
theorem test_runDefault : (runDefault State.reset).1 = .failed .illegalInstAccess ∧
    (runDefault { loaded [⟨7, 0⟩] with params.defaultFuel := 2 }).2.runSteps = 2 := by decide
/-- P7: the empty program -/
theorem test_run_empty : (run 69 State.reset).1 = .failed .illegalInstAccess ∧ (run 69 State.reset).2.runSteps = 1 := by
  decide
/-- L-1, L-2, L-5, L-8 -/
theorem test_loadFile : (loadFile [] true State.reset).loadStatus = .ok ∧
    (loadFile (List.replicate 17 0) true State.reset).loadStatus = .rejected ∧
    (loadFile [1] false State.reset).loadStatus = .ioError ∧
    (loadFile [12, 0, 0, 0, 0, 0, 0, 0, 0, 0, 0, 0, 0, 0, 0, 0] true State.reset).plen = 1 := by decide
/-- L-7 -/
theorem test_loadMem_off_by_one : (loadMem [] 1024 State.reset).loadStatus = .rejected := by decide
/-- An instruction placed for the first fetch after reset runs: PUSH(5) leaves `[5]` and `ip = 1` (R70, S2). -/
theorem test_withFetchWord : seen (step (State.reset.withFetchWord 128 0x00000000000000050000000000000001)) =
    some (1, [5], .ok) := by decide
/-- A write of what an unwritten slot reads as leaves no entry (canonical form). -/
theorem test_memory_canonical : Memory.write 0#64 [(1, 7#64), (3, 9#64)] 1 0#64 = [(3, 9#64)] ∧
    Memory.wf 0#64 [(3, 9#64), (1, 7#64)] = false ∧ Memory.below 3 [(3, 9#64)] = false := by decide

/-! Witnesses. -/

/-- A core whose first record is this one, with a stack of two ones. -/
def ready (r : Record) : State := (coreAt 0 [1, 1]).storeProgram [r]

theorem witness_StepKeepsInvariant : ∃ s t : State, s.Inv ∧ step s = .next t :=
  ⟨State.reset, _, by constructor <;> decide, rfl⟩
/-- The least capacities that will do. -/
theorem witness_PowerOnMeetsInvariant : Params.wellFormed ⟨1, 1, ⟨.four, .big⟩, 0⟩ = true := by decide
theorem witness_CommandsKeepInvariant : ∃ s : State, s.Inv := ⟨State.reset, by constructor <;> decide⟩
theorem witness_PushEffect_room : { full with sp := 1023 }.sp < full.params.stackCapacity := by decide
theorem witness_PushEffect_full : full.sp ≥ full.params.stackCapacity := by decide
theorem witness_DupEffect_negative : (-1#64).toInt < 0 := by decide
theorem witness_DupEffect_underflow : 0 ≤ (3#64).toInt ∧ ((coreAt 0 [4, 5, 6]).sp : Int) ≤ (3#64).toInt := by decide
theorem witness_DupEffect_overflow :
    0 ≤ (1023#64).toInt ∧ (1023#64).toInt < full.sp ∧ full.sp ≥ full.params.stackCapacity := by decide
theorem witness_DupEffect_success :
    0 ≤ (2#64).toInt ∧ (2#64).toInt < (coreAt 0 [4, 5, 6]).sp ∧ (coreAt 0 [4, 5, 6]).sp < (coreAt 0 [4, 5, 6]).params.stackCapacity := by decide
/-- PlusMinusMultEffects, DivEffect, EqEffect: too few entries, at the boundary -/
theorem witness_binary_short : (coreAt 0 [3]).sp < 2 := by decide
/-- PlusMinusMultEffects, EqEffect: two entries, the least number that will do -/
theorem witness_binary_ready : 2 ≤ (coreAt 0 [3, 4]).sp := by decide
theorem witness_DivEffect_zero :
    2 ≤ (coreAt 2 [10, 0]).sp ∧ (coreAt 2 [10, 0]).slot ((coreAt 2 [10, 0]).sp - 1) = 0#64 := by decide
theorem witness_DivEffect_divisor :
    2 ≤ (coreAt 0 [0, 5]).sp ∧ (coreAt 0 [0, 5]).slot ((coreAt 0 [0, 5]).sp - 1) ≠ 0#64 := by decide
/-- JmpIfEffect, PrintDebugEffect: the empty stack -/
theorem witness_single_entry_short : (coreAt 5 []).sp < 1 := by decide
theorem witness_JmpIfEffect_taken :
    1 ≤ (coreAt 5 [minWord]).sp ∧ (coreAt 5 [minWord]).slot ((coreAt 5 [minWord]).sp - 1) ≠ 0#64 := by decide
theorem witness_JmpIfEffect_falls_through :
    1 ≤ (coreAt 5 [0]).sp ∧ (coreAt 5 [0]).slot ((coreAt 5 [0]).sp - 1) = 0#64 := by decide
theorem witness_PrintDebugEffect : 1 ≤ (coreAt 0 [minWord]).sp := by decide
theorem witness_WrapLaw : (2 ^ 64 : Int) ∣ minWord.toInt - 2 ^ 63 := by decide
theorem witness_TruncatingDivision : (-1#64) ≠ 0#64 ∧ minWord = minWord ∧ (-1#64) = -1#64 ∧
    (minWord.toInt = 0 ∨ (0 < minWord.toInt ↔ 0 < (-1#64).toInt)) := by decide
theorem witness_TruncatingDivision_signs :
    ¬ ((-7#64).toInt = 0 ∨ (0 < (-7#64).toInt ↔ 0 < (2#64).toInt)) ∧ ¬ ((-7#64) = minWord ∧ (2#64) = -1#64) := by
  decide
theorem witness_StepRunsDecodedInstruction :
    ¬ (ready ⟨3, 0⟩).Terminal ∧ 0 ≤ (ready ⟨3, 0⟩).ip.toInt ∧ (ready ⟨3, 0⟩).ip.toInt < (ready ⟨3, 0⟩).plen ∧
    decodeRecord ((ready ⟨3, 0⟩).record (ready ⟨3, 0⟩).ip.toInt.toNat) = .ok (.plus 0) ∧
    (Instr.plus 0).wellFormed = true := ⟨by decide, by decide, by decide, rfl, rfl⟩
theorem witness_StepCycle_terminal : State.Terminal { State.reset with err := .divByZero } := by decide
theorem witness_StepCycle_bounds : ¬ (loaded [⟨0, 0⟩]).Terminal ∧
    (State.setIp (-1) (loaded [⟨0, 0⟩])).ip.toInt < 0 ∧
    ((loaded [⟨0, 0⟩]).plen : Int) ≤ (State.setIp 1 (loaded [⟨0, 0⟩])).ip.toInt := by decide
theorem witness_StepCycle_illegal : ¬ (ready ⟨12, 0⟩).Terminal ∧ 0 ≤ (ready ⟨12, 0⟩).ip.toInt ∧
    (ready ⟨12, 0⟩).ip.toInt < (ready ⟨12, 0⟩).plen ∧
    12 ≤ ((ready ⟨12, 0⟩).record (ready ⟨12, 0⟩).ip.toInt.toNat).tag.toNat := by decide
theorem witness_StepCycle_legal : ¬ (ready ⟨11, 0⟩).Terminal ∧ 0 ≤ (ready ⟨11, 0⟩).ip.toInt ∧
    (ready ⟨11, 0⟩).ip.toInt < (ready ⟨11, 0⟩).plen ∧
    ((ready ⟨11, 0⟩).record (ready ⟨11, 0⟩).ip.toInt.toNat).tag.toNat < 12 := by decide
/-- TerminalStatesTakeNoStep, TerminalStopsByName -/
theorem witness_TerminalStates_failed :
    (State.setErr .divByZero State.reset).err ≠ .ok ∧ (State.setErr .divByZero State.reset).halted = false := by decide
/-- TerminalStatesTakeNoStep, TerminalStopsByName -/
theorem witness_TerminalStates_halted : State.reset.setHalted.halted = true := by decide
theorem witness_ErrorEntryWritesOnlyErr : ∃ s t : State, step s = .next t ∧ t.err ≠ .ok :=
  ⟨State.reset, _, rfl, by decide⟩
theorem witness_ErrorKinds_overflow : ∃ s t : State, step s = .next t ∧ t.err = .stackOverflow :=
  ⟨full.storeProgram [⟨1, 7⟩], _, rfl, by decide⟩
theorem witness_ErrorKinds_underflow : ∃ s t : State, step s = .next t ∧ t.err = .stackUnderflow :=
  ⟨loaded [⟨3, 0⟩], _, rfl, by decide⟩
theorem witness_ErrorKinds_instruction : ∃ s t : State, step s = .next t ∧ t.err = .illegalInstruction :=
  ⟨loaded [⟨12, 0⟩], _, rfl, by decide⟩
theorem witness_ErrorKinds_access : ∃ s t : State, step s = .next t ∧ t.err = .illegalInstAccess :=
  ⟨State.reset, _, rfl, by decide⟩
theorem witness_ErrorKinds_operand : ∃ s t : State, step s = .next t ∧ t.err = .illegalOperand :=
  ⟨loaded [⟨2, -1⟩], _, rfl, by decide⟩
theorem witness_ErrorKinds_divByZero : ∃ s t : State, step s = .next t ∧ t.err = .divByZero :=
  ⟨(coreAt 0 [10, 0]).storeProgram [⟨6, 0⟩], _, rfl, by decide⟩
theorem witness_StackPointerLaw_success : ∃ t, (coreAt 0 [3, 4]).err = .ok ∧
    exec (.plus 0) (coreAt 0 [3, 4]) = .next t ∧ t.err = .ok := ⟨_, rfl, rfl, rfl⟩
theorem witness_StackPointerLaw_failure : ∃ t, (coreAt 0 [3]).err = .ok ∧
    exec (.plus 0) (coreAt 0 [3]) = .next t ∧ t.err ≠ .ok := ⟨_, rfl, rfl, by decide⟩
theorem witness_StepFrame : ∃ t, step (ready ⟨3, 0⟩) = .next t ∧ 1 + 1 ≠ t.sp := ⟨_, rfl, by decide⟩
theorem witness_HaltedSetOnlyByHalt : ∃ t, step (ready ⟨10, 0⟩) = .next t ∧ t.halted = true := ⟨_, rfl, rfl⟩
theorem witness_HaltedSetOnlyByHalt_command :
    State.reset.setHalted.halted = true ∧ (Command.run 1) ≠ .reset := by decide
theorem witness_ErrStickyUntilReset :
    (State.setErr .stackOverflow State.reset).err ≠ .ok ∧ Command.step ≠ .reset := by decide
theorem witness_OutputOnlyByPrintDebug : ∃ t, step (ready ⟨11, 0⟩) = .next t ∧ t.debugOut = [1] := ⟨_, rfl, rfl⟩
theorem witness_OutputOnlyByPrintDebug_command : Command.reset ≠ .step ∧ ∀ b, Command.reset ≠ .run b := by simp
/-- Two states that differ in a dead slot, in the output channel and in the load status. -/
theorem witness_StepSeesOnlyLiveState : (ready ⟨3, 0⟩).Agree
      (((ready ⟨3, 0⟩).setSlot 5 9#64).emit 7#64 |>.setLoadStatus .rejected) ∧
    ready ⟨3, 0⟩ ≠ (((ready ⟨3, 0⟩).setSlot 5 9#64).emit 7#64 |>.setLoadStatus .rejected) ∧
    ∃ t, step (ready ⟨3, 0⟩) = .next t := by
  refine ⟨⟨rfl, rfl, rfl, rfl, rfl, rfl, fun i hi => ?_, fun i _ => rfl⟩, by decide, _, rfl⟩
  have h5 : i ≠ 5 := by have : i < 2 := hi; omega
  exact (Memory.read_write_ne (d := State.unwrittenWord) (ready ⟨3, 0⟩).stack h5 9#64).symm
theorem witness_StepSeesOnlyLiveState_fault :
    ∃ s u : State, s.Agree u ∧ step s = .fault (.failed .divByZero) :=
  ⟨State.setErr .divByZero State.reset, (State.setErr .divByZero State.reset).emit 1, ⟨rfl, rfl, rfl, rfl, rfl, rfl, fun _ _ => rfl, fun _ _ => rfl⟩, rfl⟩
theorem witness_StepSeesOnlyLiveState_refusal : ∃ s u : State, s.Agree u ∧ step s = .refused .halted :=
  ⟨State.reset.setHalted, State.reset.setHalted.emit 1, ⟨rfl, rfl, rfl, rfl, rfl, rfl, fun _ _ => rfl, fun _ _ => rfl⟩, rfl⟩
theorem witness_DecodeEncodeAgree : (Instr.printDebug maxWord).wellFormed = true := by decide
theorem witness_DecoderTotalAndExact_legal : (Record.mk 11#64 minWord).tag.toNat < 12 := by decide
theorem witness_DecoderTotalAndExact_illegal : 12 ≤ (Record.mk 12#64 0#64).tag.toNat := by decide
theorem witness_TableWordHasOneMeaning : 0xffffffffffffffff000000000000000b < 2 ^ 128 := by decide
theorem witness_RecordByteOrder : 7 < 8 ∧ 7 < TagBytes.eight.count ∧ 3 < TagBytes.four.count := by decide
theorem witness_SaveThenLoadRoundTrip : [Record.mk 11#64 minWord, Record.mk 0xffffffff#64 1#64].length ≤ State.reset.params.programCapacity ∧
    ∀ r ∈ [Record.mk 11#64 minWord, Record.mk 0xffffffff#64 1#64], r.fits ⟨.four, .big⟩ = true := by decide
theorem witness_LoadMemReplacesProgram_rejected : 1024 ≥ State.reset.params.programCapacity := by decide
theorem witness_LoadMemReplacesProgram_loaded :
    1023 < State.reset.params.programCapacity ∧ 1023 ≤ (List.replicate 1023 (Record.mk 10#64 0#64)).length := by
  simp only [List.length_replicate]; decide
theorem witness_LoadFileReplacesProgram_partial :
    (List.replicate 17 0#8).length % State.reset.params.format.recordBytes ≠ 0 := by decide
theorem witness_LoadFileReplacesProgram_long :
    (List.replicate (1025 * 16) 0#8).length / State.reset.params.format.recordBytes > State.reset.params.programCapacity := by
  simp only [List.length_replicate]; decide
theorem witness_LoadFileReplacesProgram_loaded :
    (List.replicate (1024 * 16) 0#8).length % State.reset.params.format.recordBytes = 0 ∧
    (List.replicate (1024 * 16) 0#8).length / State.reset.params.format.recordBytes ≤ State.reset.params.programCapacity := by
  simp only [List.length_replicate]; decide
theorem witness_SaveWritesRecordsEndToEnd :
    2 ≤ [Record.mk 1#64 3#64, ⟨10#64, 0#64⟩].length ∧ 1 < [Record.mk 1#64 3#64, ⟨10#64, 0#64⟩].length ∧ 1 < 2 := by decide
theorem witness_LoadsKeepExecutionState : (∃ instrs count, Command.loadMem [] 1024 = .loadMem instrs count) ∧
    ∃ bytes ioOk, Command.loadFile [1] true = .loadFile bytes ioOk := ⟨⟨_, _, rfl⟩, _, _, rfl⟩
theorem witness_RunIsRepeatedStep : (run 1 (loaded [⟨10, 0⟩])).1 = .halted ∧
    (run 1 (loaded [⟨3, 0⟩])).1 = .failed .stackUnderflow ∧ (run 0 (loaded [⟨10, 0⟩])).1 = .budgetExceeded := by decide
theorem witness_RunContinuesAfterBudget :
    ∃ t, command (.run 1) (loaded [⟨0, 0⟩, ⟨10, 0⟩]) = (.ran .budgetExceeded, t) := ⟨_, rfl⟩
theorem witness_BudgetEndIsNoSuccess : (loaded [⟨7, 0⟩]).halted = false ∧
    (∀ i, i < (loaded [⟨7, 0⟩]).plen → ((loaded [⟨7, 0⟩]).record i).tag ≠ 10#64) ∧
    ∃ t, command (.run 1) (loaded [⟨7, 0⟩]) = (.ran .budgetExceeded, t) := ⟨rfl, by decide, _, rfl⟩
theorem witness_StepKeepsWithoutHalt : ∃ t, (loaded [⟨7, 0⟩]).WithoutHalt ∧ 0 < (loaded [⟨7, 0⟩]).plen ∧
    step (loaded [⟨7, 0⟩]) = .next t := ⟨_, ⟨rfl, by decide⟩, by decide, rfl⟩
theorem witness_ParametersNeverChange : ∃ t, step small = .next t := ⟨_, rfl⟩
theorem witness_EmptyProgramFails : ¬ State.reset.Terminal ∧ State.reset.plen = 0 ∧ 0 < 1 := by decide
theorem witness_TargetsCheckedLazily_jmp :
    ¬ (loaded [⟨7, -1⟩]).Terminal ∧ fetchDecode (loaded [⟨7, -1⟩]) = .ok (.jmp (-1)) := ⟨by decide, rfl⟩
theorem witness_TargetsCheckedLazily_jmpIf : ¬ (ready ⟨9, -1⟩).Terminal ∧
    fetchDecode (ready ⟨9, -1⟩) = .ok (.jmpIf (-1)) ∧ 1 ≤ (ready ⟨9, -1⟩).sp ∧
    (ready ⟨9, -1⟩).slot ((ready ⟨9, -1⟩).sp - 1) ≠ 0#64 := ⟨by decide, rfl, by decide, by decide⟩
theorem witness_TargetsCheckedLazily_out : ∃ t, ¬ (loaded [⟨7, -1⟩]).Terminal ∧ step (loaded [⟨7, -1⟩]) = .next t ∧
    ¬ t.Terminal ∧ t.ip.toInt < 0 := ⟨_, by decide, rfl, by decide, by decide⟩
theorem witness_TargetsCheckedLazily_end : ∃ t, ¬ (loaded [⟨0, 0⟩]).Terminal ∧ step (loaded [⟨0, 0⟩]) = .next t ∧
    ¬ t.Terminal ∧ (t.plen : Int) ≤ t.ip.toInt := ⟨_, by decide, rfl, by decide, by decide⟩
theorem witness_IpAdvance : (loaded [⟨0, 0⟩]).params.programCapacity < 2 ^ 63 ∧ (loaded [⟨0, 0⟩]).Inv ∧
    ∃ t, step (loaded [⟨0, 0⟩]) = .next t ∧ t.err = .ok ∧ t.halted = false :=
  ⟨by decide, by constructor <;> decide, _, rfl, rfl, rfl⟩
theorem witness_IpAdvance_halt : (ready ⟨10, 0⟩).params.programCapacity < 2 ^ 63 ∧ (ready ⟨10, 0⟩).Inv ∧ ∃ t, step (ready ⟨10, 0⟩) = .next t ∧ t.halted = true :=
  ⟨by decide, by constructor <;> decide, _, rfl, rfl⟩
theorem witness_ObserveReadsWithoutEffect : 1 < (coreAt 0 [3, 4]).sp ∧ 0 < (ready ⟨3, 0⟩).plen := by decide

end Sys2Proof.Tests
end

namespace Sys2Proof.Machine

/-! What one instruction can do, said once (`exec_cases`): the step-level facts about single fields follow from it. -/

/-- What an instruction that ends without an error, and is neither HALT nor PRINT_DEBUG, leaves unchanged: all but
`sp`, `ip` and the slot at the new top. -/
structure DataEffect (s t : State) : Prop extends OnlyStackAndIp s t where
  slots : ∀ j, j + 1 ≠ t.sp → t.slot j = s.slot j

/-- New stack contents, `sp` and `ip` are a data effect where no slot but the one at the new top changes. -/
theorem dataEffect_update {s : State} {m : Memory Word} {n : Nat} (t : Word)
    (h : ∀ j, j + 1 ≠ n → m.read State.unwrittenWord j = s.slot j) :
    DataEffect s { s with stack := m, sp := n, ip := t } :=
  ⟨⟨⟨rfl, rfl, rfl, rfl, rfl, rfl⟩, rfl, rfl, rfl⟩, h⟩

theorem dataEffect_setSp_setIp (n : Nat) (t : Word) (s : State) : DataEffect s ((s.setSp n).setIp t) :=
  dataEffect_update t fun _ _ => rfl

/-- A value pushed on what is left of the stack stands in the slot at the new top. -/
theorem dataEffect_setSp_push (n : Nat) (v : Word) (s : State) : DataEffect s ((s.setSp n).push v).advance :=
  dataEffect_update _ fun _ hj => State.push_slot_ne v (s.setSp n) fun h => hj (congrArg (· + 1) h)

/-- The instruction raised an error, which writes `err` alone (R95), or had a data effect. -/
def ErrorOrData (s t : State) : Prop := (∃ e, e ≠ .ok ∧ t = s.setErr e) ∨ DataEffect s t

theorem errorOrData_of_raise {e : ErrorKind} {s t : State} (he : e ≠ .ok) (h : raise e s = .next t) :
    ErrorOrData s t := by
  cases h
  exact .inl ⟨e, he, rfl⟩

theorem errorOrData_of_next {s t u : State} (hu : DataEffect s u) (h : (.next u : Outcome) = .next t) :
    ErrorOrData s t := by
  cases h
  exact .inr hu

theorem execPush_errorOrData {v : Word} {s t : State} (h : execPush v s = .next t) : ErrorOrData s t := by
  unfold execPush at h
  split at h
  · exact errorOrData_of_raise (by decide) h
  · exact errorOrData_of_next (dataEffect_setSp_push s.sp _ s) h

theorem execDup_errorOrData {k : Word} {s t : State} (h : execDup k s = .next t) : ErrorOrData s t := by
  unfold execDup at h
  split at h
  · exact errorOrData_of_raise (by decide) h
  split at h
  · exact errorOrData_of_raise (by decide) h
  split at h
  · exact errorOrData_of_raise (by decide) h
  · exact errorOrData_of_next (dataEffect_setSp_push s.sp _ s) h

theorem binary_errorOrData {f : Word → Word → Word} {s t : State} (h : binary f s = .next t) : ErrorOrData s t := by
  by_cases hsp : s.sp < 2
  · rw [binary_of_short hsp] at h
    exact errorOrData_of_raise (by decide) h
  · rw [binary_of_ready (by omega)] at h
    exact errorOrData_of_next (dataEffect_setSp_push _ _ s) h

theorem execDiv_errorOrData {o : Word} {s t : State} (h : execDiv o s = .next t) : ErrorOrData s t := by
  unfold execDiv at h
  split at h
  · exact errorOrData_of_raise (by decide) h
  split at h
  · exact errorOrData_of_raise (by decide) h
  · exact binary_errorOrData h

theorem execJmpIf_errorOrData {o : Word} {s t : State} (h : execJmpIf o s = .next t) : ErrorOrData s t := by
  unfold execJmpIf at h
  split at h
  · exact errorOrData_of_raise (by decide) h
  dsimp only at h
  split at h <;> exact errorOrData_of_next (dataEffect_setSp_setIp _ _ s) h

/-- PRINT_DEBUG fails on the empty stack; otherwise it pops an entry and emits it. -/
theorem execPrintDebug_cases {o : Word} {s t : State} (h : execPrintDebug o s = .next t) :
    t = s.setErr .stackUnderflow ∨
      1 ≤ s.sp ∧ t = ((s.setSp (s.sp - 1)).emit (s.slot (s.sp - 1))).advance := by
  unfold execPrintDebug at h
  split at h
  · cases h; exact .inl rfl
  · next hsp => cases h; exact .inr ⟨by omega, rfl⟩

/-- Everything an instruction can do: HALT sets `halted`; PRINT_DEBUG fails or emits the entry it pops; any other
instruction ends in an error entry or a data effect. -/
theorem exec_cases {i : Instr} {s t : State} (h : exec i s = .next t) :
    (∃ o, i = .halt o ∧ t = s.setHalted) ∨
    (∃ o, i = .printDebug o ∧ (t = s.setErr .stackUnderflow ∨
      1 ≤ s.sp ∧ t = ((s.setSp (s.sp - 1)).emit (s.slot (s.sp - 1))).advance)) ∨
    (∀ o, i ≠ .halt o) ∧ (∀ o, i ≠ .printDebug o) ∧ ErrorOrData s t := by
  cases i with
  | halt o => cases h; exact .inl ⟨o, rfl, rfl⟩
  | printDebug o => exact .inr (.inl ⟨o, rfl, execPrintDebug_cases (o := o) h⟩)
  | nop o => exact .inr (.inr ⟨nofun, nofun, errorOrData_of_next (dataEffect_setSp_setIp s.sp _ s) h⟩)
  | jmp t => exact .inr (.inr ⟨nofun, nofun, errorOrData_of_next (dataEffect_setSp_setIp s.sp _ s) h⟩)
  | push v => exact .inr (.inr ⟨nofun, nofun, execPush_errorOrData h⟩)
  | dup k => exact .inr (.inr ⟨nofun, nofun, execDup_errorOrData h⟩)
  | plus o | minus o | mult o | eq o =>
    simp only [exec, execPlus, execMinus, execMult, execEq] at h
    exact .inr (.inr ⟨nofun, nofun, binary_errorOrData h⟩)
  | div o => exact .inr (.inr ⟨nofun, nofun, execDiv_errorOrData (o := o) h⟩)
  | jmpIf t => exact .inr (.inr ⟨nofun, nofun, execJmpIf_errorOrData h⟩)

/-- HALT alone sets `halted`. -/
theorem exec_halted {i : Instr} {s t : State} (h : exec i s = .next t) :
    t.halted = true ↔ s.halted = true ∨ ∃ o, i = .halt o := by
  rcases exec_cases h with ⟨o, rfl, rfl⟩ | ⟨o, rfl, rfl | ⟨-, rfl⟩⟩ | ⟨hi, -, ⟨e, -, rfl⟩ | hd⟩
  · simp
  · simp
  · simp
  · simp [hi]
  · simp [hi, hd.halted]

/-- After a step `halted` is set exactly when the fetched instruction was HALT. -/
theorem step_halted {s t : State} (h : step s = .next t) :
    t.halted = true ↔ ∃ o, fetchDecode s = .ok (.halt o) := by
  obtain ⟨hs, -, ⟨e, -, hf, rfl⟩ | ⟨i, hf, hx⟩⟩ := step_cases h
  · simp [hf, hs]
  · simp [hf, hs, exec_halted hx]

/-! What the host's commands leave unchanged. -/

/-- LOAD_MEM writes the program, its length and `load_status`, and nothing else. -/
theorem loadMem_frame (instrs : List Record) (count : Nat) (s : State) :
    ∃ m n l, loadMem instrs count s = { s with prog := m, plen := n, loadStatus := l } := by
  rcases lt_or_ge count s.params.programCapacity with h | h
  · exact ⟨_, _, _, loadMem_of_room h instrs⟩
  · exact ⟨_, _, _, loadMem_of_full h instrs⟩

/-- LOAD_FILE writes the program, its length and `load_status`, and nothing else. -/
theorem loadFileAs_frame (fmt : Format) (bytes : List Byte) (ioOk : Bool) (s : State) :
    ∃ m n l, loadFileAs fmt bytes ioOk s = { s with prog := m, plen := n, loadStatus := l } := by
  cases ioOk with
  | false => exact ⟨_, _, _, loadFileAs_of_ioError fmt bytes s⟩
  | true =>
    by_cases h : bytes.length % fmt.recordBytes = 0 ∧ bytes.length / fmt.recordBytes ≤ s.params.programCapacity
    · exact ⟨_, _, _, loadFileAs_of_fit h.1 h.2⟩
    · exact ⟨_, _, _, loadFileAs_of_unfit (by omega)⟩

/-- Where the run controller has a verdict, RUN returns it at once: no step is taken or counted, whatever the budget. -/
theorem run_of_verdict {s : State} {o : RunOutcome} (h : runVerdict s = some o) (budget : Nat) :
    run budget s = (o, s.beginRun.setRunState o.runState) := by
  have hb : runVerdict s.beginRun = some o := h
  cases budget <;> simp [run, runLoop, hb]

/-- In a terminal state no command but RESET changes `halted` or `err`. -/
theorem command_keeps_halted_err {s : State} (hs : s.Terminal) {c : Command} (hc : c ≠ .reset) :
    (command c s).2.halted = s.halted ∧ (command c s).2.err = s.err := by
  cases c with
  | reset => exact absurd rfl hc
  | loadMem instrs count =>
    obtain ⟨m, n, l, h⟩ := loadMem_frame instrs count s
    simp [command, h]
  | loadFile bytes ioOk =>
    obtain ⟨m, n, l, h⟩ := loadFileAs_frame s.params.format bytes ioOk s
    simp [command, loadFile, h]
  | save instrs count => exact ⟨rfl, rfl⟩
  | step => simp [command, stepCommand_of_terminal hs]
  | run budget =>
    obtain ⟨o, ho⟩ := Option.ne_none_iff_exists'.mp fun h => runVerdict_eq_none.mp h hs
    simp [command, run_of_verdict ho]
  | observe => exact ⟨rfl, rfl⟩

/-- No error kind has code 7 (10_state.md R23). -/
theorem ErrorKind.code_ne_seven (e : ErrorKind) : e.code ≠ 7 := by
  cases e <;> decide

/-- OBSERVE's stack lists the live slots, bottom first. -/
theorem observe_stack_getElem? {s : State} {i : Nat} (h : i < s.sp) : (observe s).stack[i]? = some (s.slot i) := by
  simp [observe, h]

/-- OBSERVE's program lists the slots below PLEN, in index order. -/
theorem observe_program_getElem? {s : State} {i : Nat} (h : i < s.plen) :
    (observe s).program[i]? = some (s.record i) := by
  simp [observe, h]

@[simp] theorem observe_stack_length (s : State) : (observe s).stack.length = s.sp := by simp [observe]

@[simp] theorem observe_program_length (s : State) : (observe s).program.length = s.plen := by simp [observe]

/-- Settles O25: a step sets `halted` only through `exec` of HALT, and a halted state is terminal, where no command but
RESET writes it. -/
theorem haltedSetOnlyByHalt : Obligations.HaltedSetOnlyByHalt :=
  ⟨fun _ _ h => step_halted h,
    fun _ _ hs hc => (command_keeps_halted_err (.inl hs) hc).1.trans hs,
    fun s => s.clearExecution_halted⟩

/-- Settles O26: a failed state is terminal, where no command but RESET writes `err`. -/
theorem errStickyUntilReset : Obligations.ErrStickyUntilReset :=
  ⟨fun _ _ hs hc => (command_keeps_halted_err (.inr hs) hc).2, fun s => s.clearExecution_err,
    ErrorKind.code_ne_seven⟩

/-- Settles O45: the observation is `observe s`, whose two lists are the slots below `sp` and below PLEN. -/
theorem observeReadsWithoutEffect : Obligations.ObserveReadsWithoutEffect := fun s =>
  ⟨observe s, rfl, rfl, rfl, rfl, rfl, rfl, rfl, rfl, rfl, observe_stack_length s, observe_program_length s,
    fun _ => observe_stack_getElem?, fun _ => observe_program_getElem?⟩

end Sys2Proof.Machine

namespace Sys2Proof

/-! The tag table as an equivalence, and where each record stands in an image. -/

/-- An instruction is read back from its own record (30_encoding.md R52). -/
@[simp] theorem decodeRecord_encode (i : Instr) : decodeRecord i.encode = .ok i := by
  cases i <;> rfl

/-- The decoder reads an instruction from exactly one record. -/
theorem decodeRecord_eq_ok {r : Record} {i : Instr} : decodeRecord r = .ok i ↔ i.encode = r :=
  ⟨encode_of_decodeRecord, fun h => h ▸ decodeRecord_encode i⟩

/-- The twelve tags of the table all have an opcode. -/
theorem decodeRecord_of_legal {r : Record} (h : r.tag.toNat < 12) : ∃ i, decodeRecord r = .ok i := by
  unfold decodeRecord
  interval_cases r.tag.toNat <;> exact ⟨_, rfl⟩

/-- Every other tag is illegal, whatever the operand (30_encoding.md R53). -/
theorem decodeRecord_of_illegal {r : Record} (h : 12 ≤ r.tag.toNat) : decodeRecord r = .error (.illegal r.tag) := by
  unfold decodeRecord
  split
  case h_13 => rfl
  all_goals omega

/-- Byte `j` of a number's bytes, least significant first. -/
theorem littleBytes_getElem? {n j : Nat} (h : j < n) (x : Nat) :
    (littleBytes n x)[j]? = some (BitVec.ofNat 8 (x >>> (8 * j))) := by
  induction n generalizing x j with
  | zero => omega
  | succ n ih =>
    cases j with
    | zero => simp [littleBytes]
    | succ j =>
      have hx : (x / 256) >>> (8 * j) = x >>> (8 * (j + 1)) := by
        rw [Nat.mul_succ, Nat.add_comm, Nat.shiftRight_add, Nat.shiftRight_eq_div_pow x 8]
      simp [littleBytes, ih (Nat.lt_of_succ_lt_succ h), hx]

/-- With `little`, byte `j` of a field holds bits `8j+7..8j` (30_encoding.md R50). -/
theorem fieldBytes_little_getElem? {n j : Nat} (h : j < n) (x : Word) :
    (fieldBytes .little n x.toNat)[j]? = some (x.extractLsb' (8 * j) 8) :=
  littleBytes_getElem? h x.toNat

/-- With `big`, the bytes of a field stand from its most significant end on (30_encoding.md R50). -/
theorem fieldBytes_big_getElem? {n j : Nat} (h : j < n) (x : Word) :
    (fieldBytes .big n x.toNat)[j]? = some (x.extractLsb' (8 * n - 8 - 8 * j) 8) := by
  have hk : 8 * n - 8 - 8 * j = 8 * (n - 1 - j) := by omega
  rw [hk, fieldBytes, List.getElem?_reverse (by simpa using h), littleBytes_length]
  exact littleBytes_getElem? (by omega) x.toNat

/-- The tag field stands first in a record's bytes (30_encoding.md R49). -/
theorem Record.bytes_getElem?_tag {fmt : Format} {j : Nat} (h : j < fmt.tagBytes.count) (r : Record) :
    (r.bytes fmt)[j]? = (fieldBytes fmt.byteOrder fmt.tagBytes.count r.tag.toNat)[j]? :=
  List.getElem?_append_left (by simpa using h)

/-- The operand field follows the tag field (30_encoding.md R49). -/
theorem Record.bytes_getElem?_operand (fmt : Format) (r : Record) (j : Nat) :
    (r.bytes fmt)[fmt.tagBytes.count + j]? = (fieldBytes fmt.byteOrder 8 r.operand.toNat)[j]? := by
  rw [Record.bytes, List.getElem?_append_right (by simp)]
  simp

/-- A record is read from the first `RECORD_BYTES` bytes alone. -/
theorem Record.ofBytes_take (fmt : Format) (bs : List Byte) :
    Record.ofBytes fmt (bs.take fmt.recordBytes) = Record.ofBytes fmt bs := by
  simp [Record.ofBytes, Format.recordBytes, List.take_take, List.drop_take]

/-- The `i`-th record of an image is read from the `i`-th `RECORD_BYTES` bytes. -/
theorem recordsOfImage_getElem? {n i : Nat} (h : i < n) (fmt : Format) (bs : List Byte) :
    (recordsOfImage fmt n bs)[i]? =
      some (Record.ofBytes fmt ((bs.drop (i * fmt.recordBytes)).take fmt.recordBytes)) := by
  induction n generalizing bs i with
  | zero => omega
  | succ n ih =>
    cases i with
    | zero => simp [recordsOfImage, Record.ofBytes_take]
    | succ i =>
      simp [recordsOfImage, ih (Nat.lt_of_succ_lt_succ h), List.drop_drop, Nat.succ_mul, Nat.add_comm]

/-- The `i`-th `RECORD_BYTES` bytes of an image are the bytes of its `i`-th record. -/
theorem imageOfRecords_slice (fmt : Format) {rs : List Record} {i : Nat} (h : i < rs.length) :
    ((imageOfRecords fmt rs).drop (i * fmt.recordBytes)).take fmt.recordBytes = rs[i].bytes fmt := by
  induction rs generalizing i with
  | nil => simp at h
  | cons r rs ih =>
    cases i with
    | zero => simp [imageOfRecords]
    | succ i =>
      rw [imageOfRecords, Nat.succ_mul, Nat.add_comm, ← List.drop_drop, List.drop_left' (r.bytes_length fmt)]
      exact ih (Nat.lt_of_succ_lt_succ h)

end Sys2Proof

namespace Sys2Proof.Machine

/-! The step cycle and the commands on programs, through the laws of the decoder and of the images. -/

/-- `exec` answers a next state for every instruction: it neither faults nor refuses. -/
theorem exec_next (i : Instr) (s : State) : ∃ t, exec i s = .next t := by
  rcases exec_error_or_keeps_err i s with ⟨e, -, h⟩ | ⟨t, h, -⟩
  · exact ⟨_, h⟩
  · exact ⟨t, h⟩

/-- STEP of a core that is not terminal, where the fetch errs: `err` holds the kind and nothing else changes. -/
theorem stepCommand_of_fetch_error {s : State} {e : ErrorKind} (hs : ¬ s.Terminal) (h : fetchDecode s = .error e) :
    stepCommand s = (.stepped e, { s with err := e }) :=
  stepCommand_of_next (t := s.setErr e) (by rw [step_of_not_terminal hs, h])

/-- The fetch of an `ip` outside the program. -/
theorem fetchDecode_of_out_of_bounds {s : State} (h : s.ip.toInt < 0 ∨ (s.plen : Int) ≤ s.ip.toInt) :
    fetchDecode s = .error .illegalInstAccess :=
  if_neg fun hb => by have := ipInBounds_iff.mp hb; omega

/-- The fetch of a record with an illegal tag. -/
theorem fetchDecode_of_illegal {s : State} (hb : s.ipInBounds = true) (h : 12 ≤ s.fetched.tag.toNat) :
    fetchDecode s = .error .illegalInstruction := by
  rw [fetchDecode, if_pos hb, decodeRecord_of_illegal h]

@[simp] theorem firstRecords_length (instrs : List Record) (count : Nat) :
    (firstRecords instrs count).length = count := by
  simp [firstRecords]

/-- The records a command takes from a sequence that has them all. -/
theorem firstRecords_eq_take {instrs : List Record} {count : Nat} (h : count ≤ instrs.length) :
    firstRecords instrs count = instrs.take count := by
  refine List.ext_getElem (by simp [h]) fun i hi _ => ?_
  have hi' : i < instrs.length := by
    rw [firstRecords_length] at hi
    omega
  simp [firstRecords, hi']

theorem saveAs_eq_image {instrs : List Record} {count : Nat} (h : count ≤ instrs.length) (fmt : Format) :
    saveAs fmt instrs count = imageOfRecords fmt (instrs.take count) := by
  rw [saveAs, firstRecords_eq_take h]

/-- Below the new program's length its own records stand. -/
theorem State.storeProgram_record_below {rs : List Record} {j : Nat} (h : j < rs.length) (s : State) :
    (s.storeProgram rs).record j = rs[j] := by
  rw [State.storeProgram_record, List.getD_eq_getElem _ _ h]

/-- From the new program's length on the slots keep what they held. -/
theorem State.storeProgram_record_above {rs : List Record} {j : Nat} (h : rs.length ≤ j) (s : State) :
    (s.storeProgram rs).record j = s.record j := by
  rw [State.storeProgram_record, List.getD_eq_default _ _ h]

/-- Settles O34: SAVE's image is the records' bytes end to end, which the load reads back one by one. -/
theorem saveThenLoadRoundTrip : Obligations.SaveThenLoadRoundTrip := by
  intro fmt instrs s hlen hfits
  have hcount : (imageOfRecords fmt instrs).length / fmt.recordBytes = instrs.length := by
    rw [imageOfRecords_length, Nat.mul_div_cancel _ fmt.recordBytes_pos]
  have hload : loadFileAs fmt (saveAs fmt instrs instrs.length) true s =
      (s.storeProgram instrs).setLoadStatus .ok := by
    rw [saveAs_eq_image le_rfl, List.take_length, loadFileAs_of_fit (by simp) (hcount.trans_le hlen), hcount,
      recordsOfImage_imageOfRecords fmt instrs hfits]
  exact ⟨_, hload, rfl, rfl, fun i h => State.storeProgram_record_below h s⟩

/-- Settles O18: the terminal test, the bounds check, the tag and the dispatch, in R59's order. -/
theorem stepCycle : Obligations.StepCycle := by
  intro s
  refine ⟨stepCommand_of_terminal, fun hs hip => ?_, fun hs hlo hhi => ⟨fun htag => ?_, fun htag => ?_⟩⟩
  · exact stepCommand_of_fetch_error hs (fetchDecode_of_out_of_bounds hip)
  · exact stepCommand_of_fetch_error hs (fetchDecode_of_illegal (ipInBounds_iff.mpr ⟨hlo, hhi⟩) htag)
  · obtain ⟨i, hi⟩ := decodeRecord_of_legal htag
    obtain ⟨t, ht⟩ := exec_next i s
    have hf : fetchDecode s = .ok i := fetchDecode_ok.mpr ⟨ipInBounds_iff.mpr ⟨hlo, hhi⟩, hi⟩
    have hstep : step s = .next t := by rw [step_of_not_terminal hs, hf]; exact ht
    exact ⟨i, t, encode_of_decodeRecord hi, ht, stepCommand_of_next hstep⟩

/-- Settles O30: a legal tag has its opcode, and an instruction's record decodes to it and to nothing else. -/
theorem decoderTotalAndExact : Obligations.DecoderTotalAndExact := by
  refine fun r => ⟨fun h => ?_, fun h => ⟨decodeRecord_of_illegal h, fun j hj => ?_⟩⟩
  · obtain ⟨i, hi⟩ := decodeRecord_of_legal h
    refine ⟨i, hi, fun j => ?_⟩
    rw [← decodeRecord_eq_ok, hi, Except.ok.injEq, eq_comm]
  · have hok := decodeRecord_eq_ok.mpr hj
    rw [decodeRecord_of_illegal h] at hok
    cases hok

/-- Settles O33: each byte stands in its field, and the field's bytes run from the end the byte order names. -/
theorem recordByteOrder : Obligations.RecordByteOrder := by
  refine fun tb r j => ⟨fun h => ⟨?_, ?_⟩, fun h => ⟨?_, ?_⟩⟩
  · exact (r.bytes_getElem?_operand ⟨tb, .little⟩ j).trans (fieldBytes_little_getElem? h _)
  · exact (r.bytes_getElem?_operand ⟨tb, .big⟩ j).trans (fieldBytes_big_getElem? h _)
  · exact (r.bytes_getElem?_tag (fmt := ⟨tb, .little⟩) h).trans (fieldBytes_little_getElem? h _)
  · exact (r.bytes_getElem?_tag (fmt := ⟨tb, .big⟩) h).trans (fieldBytes_big_getElem? h _)

/-- Settles O35: the strict limit decides; the records stored are the first `count` of the sequence. -/
theorem loadMemReplacesProgram : Obligations.LoadMemReplacesProgram := by
  intro instrs count s
  refine ⟨fun h => congrArg (Prod.mk _) (loadMem_of_full h instrs), fun h hcount => ?_⟩
  have hload : loadMem instrs count s = (s.storeProgram (instrs.take count)).setLoadStatus .ok := by
    rw [loadMem_of_room h, firstRecords_eq_take hcount]
  have hlen : (instrs.take count).length = count := List.length_take_of_le hcount
  refine ⟨_, congrArg (Prod.mk _) hload, rfl, hlen, fun i hi => ?_, fun i hi => ?_, rfl⟩
  · rw [State.setLoadStatus_record, State.storeProgram_record_below (hlen.symm ▸ hi), List.getElem_take,
      List.getElem?_eq_getElem]
  · exact State.storeProgram_record_above (hlen.trans_le hi) s

/-- Settles O36: the three rejections write `load_status` alone; a fitting image is stored record by record. -/
theorem loadFileReplacesProgram : Obligations.LoadFileReplacesProgram := by
  refine ⟨fun _ _ _ => rfl, fun fmt bytes s =>
    ⟨loadFileAs_of_ioError fmt bytes s, loadFileAs_of_unfit, fun h h' => ?_⟩⟩
  have hlen := recordsOfImage_length fmt (bytes.length / fmt.recordBytes) bytes
  refine ⟨_, loadFileAs_of_fit h h', rfl, hlen, fun i hi => ?_, fun i hi => ?_, rfl⟩
  · have hget := recordsOfImage_getElem? (hi.trans_eq hlen) fmt bytes
    rw [State.setLoadStatus_record, State.storeProgram_record_below hi]
    exact (List.getElem?_eq_some_iff.mp hget).2
  · exact State.storeProgram_record_above hi s

/-- Settles O37: the image is that of the first `count` records, whose bytes stand end to end. -/
theorem saveWritesRecordsEndToEnd : Obligations.SaveWritesRecordsEndToEnd := by
  refine ⟨fun _ _ _ => rfl, fun fmt instrs count hcount => ?_⟩
  have hlen : (instrs.take count).length = count := List.length_take_of_le hcount
  rw [saveAs_eq_image hcount]
  refine ⟨by rw [imageOfRecords_length, hlen], fun i _ hi => ?_⟩
  rw [imageOfRecords_slice fmt (hlen.symm ▸ hi), List.getElem_take]

end Sys2Proof.Machine

namespace Sys2Proof.Machine

/-! PUSH and DUP, one equation per outcome, and what a push with the advance of `ip` leaves (41_stack_and_nop.md). -/

/-- After a push and the advance of `ip`: the value stands in the slot `sp` named, and only `sp` and `ip` change
beside it. -/
theorem push_advance_effect (v : Word) (s : State) :
    OnlyStackAndIp s (s.push v).advance ∧ (s.push v).advance.sp = s.sp + 1 ∧ (s.push v).advance.slot s.sp = v ∧
      SlotsBut s.sp s (s.push v).advance ∧ (s.push v).advance.ip = s.ip + 1#64 :=
  ⟨(dataEffect_setSp_push s.sp v s).toOnlyStackAndIp, rfl, State.push_slot_self v s,
    fun _ hj => State.push_slot_ne v s hj, rfl⟩

theorem execPush_of_room {s : State} (h : s.sp < s.params.stackCapacity) (v : Word) :
    execPush v s = .next (s.push v).advance :=
  if_neg h.not_ge

theorem execPush_of_full {s : State} (h : s.sp ≥ s.params.stackCapacity) (v : Word) :
    execPush v s = .next (s.setErr .stackOverflow) :=
  if_pos h

/-- A depth that is not negative is the operand's unsigned value. -/
theorem depthOperand_toNat {k : Word} (h : 0 ≤ k.toInt) : (depthOperand k).toNat = k.toNat :=
  k.toNat_toInt_of_msb (by rw [BitVec.msb_eq_toInt, decide_eq_false h.not_gt])

theorem execDup_of_negative {k : Word} (h : k.toInt < 0) (s : State) :
    execDup k s = .next (s.setErr .illegalOperand) :=
  if_pos h

theorem execDup_of_short {k : Word} {s : State} (h0 : 0 ≤ k.toInt) (h : (s.sp : Int) ≤ k.toInt) :
    execDup k s = .next (s.setErr .stackUnderflow) :=
  (if_neg h0.not_gt).trans (if_pos h)

/-- With an entry at depth `k`, DUP is PUSH of that entry: the stack's room alone decides. -/
theorem execDup_eq_execPush {k : Word} {s : State} (h0 : 0 ≤ k.toInt) (h : k.toInt < s.sp) :
    execDup k s = execPush (s.slot (s.sp - 1 - k.toNat)) s := by
  rw [← depthOperand_toNat h0]
  exact (if_neg h0.not_gt).trans (if_neg h.not_ge)

/-- Settles O8: the room test decides; a push writes the slot `sp` names and an overflow writes `err` alone. -/
theorem pushEffect : Obligations.PushEffect := fun v s =>
  ⟨rfl, fun h => ⟨_, execPush_of_room h v, push_advance_effect v s⟩, fun h => execPush_of_full h v⟩

/-- Settles O9: the sign and the underflow test stand first; past them DUP is PUSH of the entry at depth `k`. -/
theorem dupEffect : Obligations.DupEffect := by
  refine fun k s => ⟨rfl, fun h => execDup_of_negative h s, execDup_of_short, fun h0 h hfull => ?_,
    fun h0 h hroom => ?_⟩
  · exact (execDup_eq_execPush h0 h).trans (execPush_of_full hfull _)
  · exact ⟨_, (execDup_eq_execPush h0 h).trans (execPush_of_room hroom _), push_advance_effect _ s⟩

/-- Settles O7: the three instructions test nothing, and the state HALT leaves is terminal, where STEP is refused. -/
theorem nopJmpHaltEffects : Obligations.NopJmpHaltEffects := fun _ s =>
  ⟨⟨rfl, rfl⟩, ⟨rfl, rfl⟩, rfl, rfl, stepCommand_of_terminal (s := s.setHalted) (.inl s.setHalted_halted)⟩

end Sys2Proof.Machine

namespace Sys2Proof.Machine

/-! PLUS, MINUS, MULT, DIV and EQ, each reduced to the shared binary operation, and truncating division
(42_alu.md). -/

theorem exec_plus (o : Word) (s : State) : exec (.plus o) s = binary (fun a b => wrap64 (a.toInt + b.toInt)) s := rfl

theorem exec_minus (o : Word) (s : State) : exec (.minus o) s = binary (fun a b => wrap64 (a.toInt - b.toInt)) s := rfl

theorem exec_mult (o : Word) (s : State) : exec (.mult o) s = binary (fun a b => wrap64 (a.toInt * b.toInt)) s := rfl

theorem exec_eq (o : Word) (s : State) : exec (.eq o) s = binary equalityWord s := rfl

/-- An instruction that is a binary operation raises STACK_UNDERFLOW on fewer than two entries. -/
theorem exec_binary_of_short {i : Instr} {f : Word → Word → Word} {s : State} (hexec : exec i s = binary f s)
    (h : s.sp < 2) : exec i s = .next (s.setErr .stackUnderflow) :=
  hexec.trans (binary_of_short h f)

/-- An instruction that is a binary operation has the effect of 42_alu.md R75 on two entries. -/
theorem exec_binary_effect {i : Instr} {f : Word → Word → Word} {s : State} (hexec : exec i s = binary f s)
    (h : 2 ≤ s.sp) : ∃ t, exec i s = .next t ∧ BinaryEffect f s t := by
  rw [hexec]
  exact binary_effect h f

/-- DIV on fewer than two entries: the length is tested before the divisor. -/
theorem exec_div_of_short {s : State} (h : s.sp < 2) (o : Word) : exec (.div o) s = .next (s.setErr .stackUnderflow) :=
  if_pos h

theorem exec_div_of_zero {s : State} (h : 2 ≤ s.sp) (htop : s.slot (s.sp - 1) = 0#64) (o : Word) :
    exec (.div o) s = .next (s.setErr .divByZero) :=
  (if_neg h.not_gt).trans (if_pos htop)

/-- Past its two checks DIV is a binary operation like the others. -/
theorem exec_div_of_ne_zero {s : State} (h : 2 ≤ s.sp) (htop : s.slot (s.sp - 1) ≠ 0#64) (o : Word) :
    exec (.div o) s = binary (fun a b => wrap64 (tdiv a.toInt b.toInt)) s :=
  (if_neg h.not_gt).trans (if_neg htop)

/-- The quotient of two numbers of one sign, and of 0, is not negative. -/
theorem tdiv_nonneg_of_same_sign {a b : Int} (hb : b ≠ 0) (h : a = 0 ∨ (0 < a ↔ 0 < b)) : 0 ≤ tdiv a b := by
  rcases hb.lt_or_gt with hb | hb
  · exact Int.tdiv_nonneg_of_nonpos_of_nonpos (by omega) hb.le
  · exact Int.tdiv_nonneg (by omega) hb.le

/-- The quotient of two numbers of different signs is not positive. -/
theorem tdiv_nonpos_of_opposite_sign {a b : Int} (hb : b ≠ 0) (h : ¬ (a = 0 ∨ (0 < a ↔ 0 < b))) : tdiv a b ≤ 0 := by
  rcases hb.lt_or_gt with hb | hb
  · exact Int.tdiv_nonpos_of_nonneg_of_nonpos (by omega) hb.le
  · have hneg : 0 ≤ tdiv (-a) b := Int.tdiv_nonneg (by omega) hb.le
    rwa [tdiv, Int.neg_tdiv, Int.neg_nonneg] at hneg

/-- The wrapped quotient of two Words is their signed quotient as bit vectors. -/
theorem wrap64_tdiv (a b : Word) : wrap64 (tdiv a.toInt b.toInt) = a.sdiv b :=
  BitVec.eq_of_toInt_eq (by rw [wrap64, tdiv, BitVec.toInt_ofInt, BitVec.toInt_sdiv])

/-- No quotient but `-2^63 / -1` leaves the Word range. -/
theorem toInt_wrap64_tdiv {a b : Word} (h : ¬ (a = minWord ∧ b = -1#64)) :
    (wrap64 (tdiv a.toInt b.toInt)).toInt = tdiv a.toInt b.toInt := by
  rw [wrap64_tdiv]
  exact BitVec.toInt_sdiv_of_ne_or_ne a b (not_and_or.mp h)

/-- Settles O10: each of the three is the shared binary operation at its own integer function. -/
theorem plusMinusMultEffects : Obligations.PlusMinusMultEffects := fun o s =>
  ⟨rfl, rfl, rfl,
    fun h => ⟨exec_binary_of_short (exec_plus o s) h, exec_binary_of_short (exec_minus o s) h,
      exec_binary_of_short (exec_mult o s) h⟩,
    fun h => ⟨exec_binary_effect (exec_plus o s) h, exec_binary_effect (exec_minus o s) h,
      exec_binary_effect (exec_mult o s) h⟩⟩

/-- Settles O11: the length and the divisor are tested in this order; past them DIV is a binary operation. -/
theorem divEffect : Obligations.DivEffect := fun o _ =>
  ⟨rfl, fun h => exec_div_of_short h o, fun h htop => exec_div_of_zero h htop o,
    fun h htop => exec_binary_effect (exec_div_of_ne_zero h htop o) h⟩

/-- Settles O12: EQ is the binary operation whose result is 1 or 0. -/
theorem eqEffect : Obligations.EqEffect := fun o s =>
  ⟨rfl, exec_binary_of_short (exec_eq o s), exec_binary_effect (exec_eq o s)⟩

/-- Settles O16: magnitude and bound are those of `Int.tdiv`, the sign follows from the operands' signs, and the range
is that of the bit vectors' signed division. -/
theorem truncatingDivision : Obligations.TruncatingDivision := by
  intro a b hb
  have hb0 : b.toInt ≠ 0 := BitVec.toInt_ne.mpr hb
  refine ⟨Int.natAbs_tdiv _ _, tdiv_nonneg_of_same_sign hb0, tdiv_nonpos_of_opposite_sign hb0,
    Int.natAbs_tdiv_le_natAbs _ _, ?_, toInt_wrap64_tdiv⟩
  rintro rfl rfl
  decide

end Sys2Proof.Machine

namespace Sys2Proof.Machine

/-! JMP_IF's two outcomes, the step of a fetched branch, and the step where the fetch errs (43_control.md). -/

theorem execJmpIf_of_short {s : State} (h : s.sp < 1) (target : Word) :
    execJmpIf target s = .next (s.setErr .stackUnderflow) :=
  if_pos h

/-- With one entry JMP_IF pops it and writes `ip`: the popped Word alone selects what `ip` becomes. -/
theorem execJmpIf_of_ready {s : State} (h : 1 ≤ s.sp) (target : Word) :
    execJmpIf target s = .next ((s.setSp (s.sp - 1)).setIp
      (if s.slot (s.sp - 1) = 0#64 then s.ip + 1#64 else target)) := by
  refine (if_neg h.not_gt).trans ?_
  by_cases htop : s.slot (s.sp - 1) = 0#64
  · rw [if_pos htop]
    exact if_neg (by simp [branchTaken, htop])
  · rw [if_neg htop]
    exact if_pos (by simp [branchTaken, htop])

/-- Where only the stack and `ip` change, a core that was not terminal is not terminal. -/
theorem OnlyStackAndIp.not_terminal {s t : State} (h : OnlyStackAndIp s t) (hs : ¬ s.Terminal) : ¬ t.Terminal := by
  unfold State.Terminal
  rwa [h.halted, h.err]

/-- The step of a core that is not terminal runs the instruction the fetch gives. -/
theorem step_of_fetched {s : State} {i : Instr} (hs : ¬ s.Terminal) (h : fetchDecode s = .ok i) :
    step s = exec i s := by
  rw [step_of_not_terminal hs, h]

/-- The step of a core that is not terminal, where the fetch errs, writes the kind to `err` alone. -/
theorem step_of_fetch_error {s : State} {e : ErrorKind} (hs : ¬ s.Terminal) (h : fetchDecode s = .error e) :
    step s = .next (s.setErr e) := by
  rw [step_of_not_terminal hs, h]

/-- A fetched JMP, or JMP_IF over a Word that is not 0, writes its target to `ip`, whatever Word it is, and beside it
only the stack changes. -/
theorem step_of_branch {s : State} {target : Word} (hs : ¬ s.Terminal)
    (h : fetchDecode s = .ok (.jmp target) ∨
      (fetchDecode s = .ok (.jmpIf target) ∧ 1 ≤ s.sp ∧ s.slot (s.sp - 1) ≠ 0#64)) :
    ∃ u, step s = .next u ∧ OnlyStackAndIp s u ∧ u.ip = target := by
  rcases h with hf | ⟨hf, hsp, htop⟩
  · exact ⟨_, step_of_fetched hs hf, (dataEffect_setSp_setIp s.sp target s).toOnlyStackAndIp, rfl⟩
  · exact ⟨_, (step_of_fetched hs hf).trans (execJmpIf_of_ready hsp target),
      (dataEffect_setSp_setIp _ _ s).toOnlyStackAndIp, if_neg htop⟩

/-- Settles O13: with an entry the pop is the same on both branches, and the popped Word selects `ip`. -/
theorem jmpIfEffect : Obligations.JmpIfEffect := fun target s =>
  ⟨rfl, fun h => execJmpIf_of_short h target, fun h =>
    ⟨_, execJmpIf_of_ready h target, (dataEffect_setSp_setIp _ _ s).toOnlyStackAndIp, rfl, fun _ => rfl,
      fun htop => if_neg htop, fun htop => if_pos htop⟩⟩

/-- Settles O43: a branch tests nothing of its target; the next step's bounds check comes before its fetch. -/
theorem targetsCheckedLazily : Obligations.TargetsCheckedLazily := by
  refine fun s t hs => ⟨fun target h => ?_, fun _ ht hip => ?_⟩
  · obtain ⟨u, hstep, hframe, hip⟩ := step_of_branch hs h
    have hu : ¬ u.Terminal := hframe.not_terminal hs
    obtain ⟨-, herr⟩ := not_terminal_iff.mp hu
    exact ⟨u, hstep, hip, herr, hu⟩
  · exact step_of_fetch_error ht (fetchDecode_of_out_of_bounds hip)

end Sys2Proof.Machine

namespace Sys2Proof.Machine

/-! PRINT_DEBUG, one equation per outcome, and what a pop with the emission and the advance of `ip` leaves
(44_debug.md R88). -/

theorem execPrintDebug_of_short {s : State} (h : s.sp < 1) (o : Word) :
    execPrintDebug o s = .next (s.setErr .stackUnderflow) :=
  if_pos h

theorem execPrintDebug_of_ready {s : State} (h : 1 ≤ s.sp) (o : Word) :
    execPrintDebug o s = .next ((s.setSp (s.sp - 1)).emit (s.slot (s.sp - 1))).advance :=
  if_neg h.not_gt

/-- An emission between a change of `sp` and the advance of `ip` leaves the host's part of the state alone. -/
theorem sameHostState_setSp_emit_advance (n : Nat) (v : Word) (s : State) :
    SameHostState s ((s.setSp n).emit v).advance :=
  ⟨rfl, rfl, rfl, rfl, rfl, rfl⟩

/-- Settles O14: the stack's length decides; the entry popped is the Word emitted, and a pop writes no slot. -/
theorem printDebugEffect : Obligations.PrintDebugEffect := fun o s =>
  ⟨rfl, fun h => execPrintDebug_of_short h o, fun h =>
    ⟨_, execPrintDebug_of_ready h o, sameHostState_setSp_emit_advance _ _ s, rfl, rfl, rfl, fun _ => rfl, rfl, rfl⟩⟩

end Sys2Proof.Machine

namespace Sys2Proof.Machine

/-! Terminal states: the stop of the step and the verdict of the run controller, per terminal state (60_exceptions.md
R97, R98). -/

theorem step_of_halted {s : State} (h : s.halted = true) : step s = .refused .halted := by
  simp [step, terminalStop, h]

theorem step_of_failed {s : State} (h : s.halted = false) (he : s.err ≠ .ok) : step s = .fault (.failed s.err) := by
  simp [step, terminalStop, h, he]

theorem runVerdict_of_halted {s : State} (h : s.halted = true) : runVerdict s = some .halted :=
  if_pos h

theorem runVerdict_of_failed {s : State} (h : s.halted = false) (he : s.err ≠ .ok) :
    runVerdict s = some (.failed s.err) := by
  simp [runVerdict, h, he]

/-- RUN where the run controller has a verdict: the outcome is answered with no step counted, and only the controller's
registers are written. -/
theorem command_run_of_verdict {s : State} {o : RunOutcome} (h : runVerdict s = some o) (budget : Nat) :
    command (.run budget) s = (.ran o, { s with runState := o.runState, runSteps := 0 }) := by
  simp only [command, run_of_verdict h]
  rfl

/-- Settles O19: both states are terminal, so STEP is refused, and the run controller has its verdict before any
step. -/
theorem terminalStatesTakeNoStep : Obligations.TerminalStatesTakeNoStep := by
  refine fun s => ⟨fun he hh => ⟨?_, ?_, ?_⟩, fun hh => ⟨?_, ?_, fun f hf => ?_, ?_⟩⟩
  · exact stepCommand_of_terminal (.inr he)
  · exact ⟨_, step_of_failed hh he⟩
  · exact command_run_of_verdict (runVerdict_of_failed hh he)
  · exact stepCommand_of_terminal (.inl hh)
  · exact step_ne_next_of_terminal (.inl hh)
  · cases (step_of_halted hh).symm.trans hf
  · exact command_run_of_verdict (runVerdict_of_halted hh)

end Sys2Proof.Machine

namespace Sys2Proof.Machine

/-! Error entry and the table of error kinds (60_exceptions.md R90, R95). -/

/-- A step that ends in an error has written `err` alone: the fetch and every instruction either enter the error or
keep `err`. -/
theorem step_eq_setErr {s t : State} (h : step s = .next t) (he : t.err ≠ .ok) : t = s.setErr t.err := by
  obtain ⟨-, hok, ⟨e, -, -, rfl⟩ | ⟨i, -, hx⟩⟩ := step_cases h
  · rfl
  · rcases exec_error_or_keeps_err i s with ⟨e, -, hraise⟩ | ⟨u, hnext, hkeep⟩
    · cases hx.symm.trans hraise
      rfl
    · cases hx.symm.trans hnext
      exact absurd (hkeep.trans hok) he

/-- Settles O20: a step that ends in an error is an error entry, and STEP answers with what `err` then holds. -/
theorem errorEntryWritesOnlyErr : Obligations.ErrorEntryWritesOnlyErr := by
  intro s t h he
  obtain ⟨-, hok⟩ := not_terminal_iff.mp (not_terminal_of_step h)
  exact ⟨step_eq_setErr h he, hok, stepCommand_of_next h⟩

/-- The rows of R90's table an instruction can enter: the instruction, the kind and what must hold of the state. NOP,
JMP and HALT stand in no row. -/
inductive InstrRaises (s : State) : Instr → ErrorKind → Prop
  | pushFull (v : Word) : s.sp ≥ s.params.stackCapacity → InstrRaises s (.push v) .stackOverflow
  | dupNegative (k : Word) : k.toInt < 0 → InstrRaises s (.dup k) .illegalOperand
  | dupShort (k : Word) : (s.sp : Int) ≤ k.toInt → InstrRaises s (.dup k) .stackUnderflow
  | dupFull (k : Word) : s.sp ≥ s.params.stackCapacity → InstrRaises s (.dup k) .stackOverflow
  | plusShort (o : Word) : s.sp < 2 → InstrRaises s (.plus o) .stackUnderflow
  | minusShort (o : Word) : s.sp < 2 → InstrRaises s (.minus o) .stackUnderflow
  | multShort (o : Word) : s.sp < 2 → InstrRaises s (.mult o) .stackUnderflow
  | divShort (o : Word) : s.sp < 2 → InstrRaises s (.div o) .stackUnderflow
  | divZero (o : Word) : s.slot (s.sp - 1) = 0#64 → InstrRaises s (.div o) .divByZero
  | eqShort (o : Word) : s.sp < 2 → InstrRaises s (.eq o) .stackUnderflow
  | jmpIfShort (target : Word) : s.sp < 1 → InstrRaises s (.jmpIf target) .stackUnderflow
  | printDebugShort (o : Word) : s.sp < 1 → InstrRaises s (.printDebug o) .stackUnderflow

/-- Why a step can end in an error of this kind: the bounds, the tag, or a row of the fetched instruction. -/
inductive StepRaises (s : State) : ErrorKind → Prop
  | access : s.ip.toInt < 0 ∨ (s.plen : Int) ≤ s.ip.toInt → StepRaises s .illegalInstAccess
  | illegalTag : 0 ≤ s.ip.toInt → s.ip.toInt < s.plen → 12 ≤ (s.record s.ip.toInt.toNat).tag.toNat →
      StepRaises s .illegalInstruction
  | instr {i : Instr} {e : ErrorKind} : fetchDecode s = .ok i → InstrRaises s i e → StepRaises s e

/-- PUSH keeps `err` where it has room. -/
theorem execPush_err {v : Word} {s t : State} (h : execPush v s = .next t) :
    t.err = s.err ∨ s.sp ≥ s.params.stackCapacity ∧ t.err = .stackOverflow := by
  rcases lt_or_ge s.sp s.params.stackCapacity with hroom | hfull
  · cases (execPush_of_room hroom v).symm.trans h
    exact .inl rfl
  · cases (execPush_of_full hfull v).symm.trans h
    exact .inr ⟨hfull, rfl⟩

/-- An instruction that is a binary operation keeps `err` where it has its two entries. -/
theorem exec_binary_err {i : Instr} {f : Word → Word → Word} {s t : State} (hexec : exec i s = binary f s)
    (h : exec i s = .next t) : t.err = s.err ∨ s.sp < 2 ∧ t.err = .stackUnderflow := by
  rcases lt_or_ge s.sp 2 with hshort | hready
  · cases (exec_binary_of_short hexec hshort).symm.trans h
    exact .inr ⟨hshort, rfl⟩
  · obtain ⟨u, hu, heffect⟩ := exec_binary_effect hexec hready
    cases hu.symm.trans h
    exact .inl heffect.err

theorem exec_dup_raises {k : Word} {s t : State} (h : exec (.dup k) s = .next t) :
    t.err = s.err ∨ InstrRaises s (.dup k) t.err := by
  rcases lt_or_ge k.toInt 0 with hneg | h0
  · cases (execDup_of_negative hneg s).symm.trans h
    exact .inr (.dupNegative k hneg)
  rcases lt_or_ge k.toInt s.sp with hready | hshort
  · refine (execPush_err ((execDup_eq_execPush h0 hready).symm.trans h)).imp_right ?_
    rintro ⟨hfull, he⟩
    exact he ▸ .dupFull k hfull
  · cases (execDup_of_short h0 hshort).symm.trans h
    exact .inr (.dupShort k hshort)

theorem exec_div_raises {o : Word} {s t : State} (h : exec (.div o) s = .next t) :
    t.err = s.err ∨ InstrRaises s (.div o) t.err := by
  rcases lt_or_ge s.sp 2 with hshort | hready
  · cases (exec_div_of_short hshort o).symm.trans h
    exact .inr (.divShort o hshort)
  by_cases htop : s.slot (s.sp - 1) = 0#64
  · cases (exec_div_of_zero hready htop o).symm.trans h
    exact .inr (.divZero o htop)
  · obtain ⟨u, hu, heffect⟩ := exec_binary_effect (exec_div_of_ne_zero hready htop o) hready
    cases hu.symm.trans h
    exact .inl heffect.err

theorem exec_jmpIf_raises {target : Word} {s t : State} (h : exec (.jmpIf target) s = .next t) :
    t.err = s.err ∨ InstrRaises s (.jmpIf target) t.err := by
  rcases lt_or_ge s.sp 1 with hshort | hready
  · cases (execJmpIf_of_short hshort target).symm.trans h
    exact .inr (.jmpIfShort target hshort)
  · cases (execJmpIf_of_ready hready target).symm.trans h
    exact .inl rfl

theorem exec_printDebug_raises {o : Word} {s t : State} (h : exec (.printDebug o) s = .next t) :
    t.err = s.err ∨ InstrRaises s (.printDebug o) t.err := by
  rcases lt_or_ge s.sp 1 with hshort | hready
  · cases (execPrintDebug_of_short hshort o).symm.trans h
    exact .inr (.printDebugShort o hshort)
  · cases (execPrintDebug_of_ready hready o).symm.trans h
    exact .inl rfl

/-- An instruction keeps `err` or enters a row of R90's table. -/
theorem exec_raises {i : Instr} {s t : State} (h : exec i s = .next t) : t.err = s.err ∨ InstrRaises s i t.err := by
  cases i with
  | nop o | jmp target | halt o => cases h; exact .inl rfl
  | push v => exact (execPush_err h).imp_right fun ⟨hfull, he⟩ => he ▸ .pushFull v hfull
  | dup k => exact exec_dup_raises h
  | plus o => exact (exec_binary_err (exec_plus o s) h).imp_right fun ⟨hshort, he⟩ => he ▸ .plusShort o hshort
  | minus o => exact (exec_binary_err (exec_minus o s) h).imp_right fun ⟨hshort, he⟩ => he ▸ .minusShort o hshort
  | mult o => exact (exec_binary_err (exec_mult o s) h).imp_right fun ⟨hshort, he⟩ => he ▸ .multShort o hshort
  | div o => exact exec_div_raises h
  | eq o => exact (exec_binary_err (exec_eq o s) h).imp_right fun ⟨hshort, he⟩ => he ▸ .eqShort o hshort
  | jmpIf target => exact exec_jmpIf_raises h
  | printDebug o => exact exec_printDebug_raises h

/-- A fetch errs with ILLEGAL_INST_ACCESS or ILLEGAL_INSTRUCTION, each for its own cause. -/
theorem fetchDecode_raises {s : State} {e : ErrorKind} (h : fetchDecode s = .error e) : StepRaises s e := by
  rcases fetchDecode_error h with ⟨hb, rfl⟩ | ⟨hb, rfl, d, hd⟩
  · refine .access (not_and_or.mp ?_ |>.imp not_le.mp not_lt.mp)
    rw [← ipInBounds_iff, hb]
    decide
  · obtain ⟨hlo, hhi⟩ := ipInBounds_iff.mp hb
    refine .illegalTag hlo hhi (not_lt.mp fun hlegal => ?_)
    obtain ⟨i, hi⟩ := decodeRecord_of_legal hlegal
    cases hd.symm.trans hi

/-- A step that ends in an error has a cause of that kind. -/
theorem step_raises {s t : State} {e : ErrorKind} (h : step s = .next t) (he : t.err = e) (hne : e ≠ .ok) :
    StepRaises s e := by
  subst he
  obtain ⟨-, hok, ⟨e, -, hf, rfl⟩ | ⟨i, hf, hx⟩⟩ := step_cases h
  · exact fetchDecode_raises hf
  · exact .instr hf ((exec_raises hx).resolve_left fun hkeep => hne (hkeep.trans hok))

/-- Settles O22: each kind's causes are the constructors of `StepRaises` and `InstrRaises` at that kind. -/
theorem errorKindsAndTheirCauses : Obligations.ErrorKindsAndTheirCauses := by
  refine ⟨⟨rfl, rfl, rfl, rfl, rfl, rfl, rfl⟩, fun s t h => ⟨fun he => ?overflow, fun he => ?underflow,
    fun he => ?instruction, fun he => ?access, fun he => ?operand, fun he => ?divByZero⟩⟩
  case overflow =>
    cases step_raises h he (by decide) with | instr hf hrow =>
    cases hrow with
    | pushFull v hfull => exact ⟨hfull, .inl ⟨v, hf⟩⟩
    | dupFull k hfull => exact ⟨hfull, .inr ⟨k, hf⟩⟩
  case underflow =>
    cases step_raises h he (by decide) with | instr hf hrow =>
    cases hrow with
    | dupShort k hshort => exact .inl ⟨k, hf, hshort⟩
    | plusShort o hshort => exact .inr (.inl ⟨o, hshort, .inl hf⟩)
    | minusShort o hshort => exact .inr (.inl ⟨o, hshort, .inr (.inl hf)⟩)
    | multShort o hshort => exact .inr (.inl ⟨o, hshort, .inr (.inr (.inl hf))⟩)
    | divShort o hshort => exact .inr (.inl ⟨o, hshort, .inr (.inr (.inr (.inl hf)))⟩)
    | eqShort o hshort => exact .inr (.inl ⟨o, hshort, .inr (.inr (.inr (.inr hf)))⟩)
    | jmpIfShort target hshort => exact .inr (.inr ⟨target, hshort, .inl hf⟩)
    | printDebugShort o hshort => exact .inr (.inr ⟨o, hshort, .inr hf⟩)
  case instruction =>
    cases step_raises h he (by decide) with
    | illegalTag hlo hhi htag => exact ⟨hlo, hhi, htag⟩
    | instr hf hrow => cases hrow
  case access =>
    cases step_raises h he (by decide) with
    | access hip => exact hip
    | instr hf hrow => cases hrow
  case operand =>
    cases step_raises h he (by decide) with | instr hf hrow =>
    cases hrow with | dupNegative k hneg => exact ⟨k, hf, hneg⟩
  case divByZero =>
    cases step_raises h he (by decide) with | instr hf hrow =>
    cases hrow with | divZero o htop => exact ⟨⟨o, hf⟩, htop⟩

end Sys2Proof.Machine

namespace Sys2Proof.Machine

/-! The run controller: where its loop can end, and the programs without HALT (60_exceptions.md R101, R103). -/

theorem sameHostState_setErr (e : ErrorKind) (s : State) : SameHostState s (s.setErr e) :=
  ⟨rfl, rfl, rfl, rfl, rfl, rfl⟩

/-- No instruction writes the program, the host's registers or the parameters. -/
theorem exec_sameHostState {i : Instr} {s t : State} (h : exec i s = .next t) : SameHostState s t := by
  rcases exec_cases h with ⟨-, -, rfl⟩ | ⟨-, -, rfl | ⟨-, rfl⟩⟩ | ⟨-, -, ⟨e, -, rfl⟩ | hdata⟩
  · exact ⟨rfl, rfl, rfl, rfl, rfl, rfl⟩
  · exact sameHostState_setErr _ s
  · exact sameHostState_setSp_emit_advance _ _ s
  · exact sameHostState_setErr e s
  · exact hdata.toSameHostState

/-- No step writes the program, the host's registers or the parameters. -/
theorem step_sameHostState {s t : State} (h : step s = .next t) : SameHostState s t := by
  obtain ⟨-, -, ⟨e, -, -, rfl⟩ | ⟨i, -, hx⟩⟩ := step_cases h
  · exact sameHostState_setErr e s
  · exact exec_sameHostState hx

theorem step_next_of_not_terminal {s : State} (h : ¬ s.Terminal) : ∃ t, step s = .next t := by
  cases hf : fetchDecode s with
  | ok i => exact (exec_next i s).imp fun _ hx => (step_of_fetched h hf).trans hx
  | error e => exact ⟨_, step_of_fetch_error h hf⟩

/-- A program without a HALT record gives the fetch no HALT. -/
theorem State.WithoutHalt.fetchDecode_ne_halt {s : State} (h : s.WithoutHalt) (o : Word) :
    fetchDecode s ≠ .ok (.halt o) := by
  intro hf
  obtain ⟨hb, hd⟩ := fetchDecode_ok.mp hf
  obtain ⟨hlo, hhi⟩ := ipInBounds_iff.mp hb
  exact h.text s.ip.toInt.toNat (by omega) (congrArg Record.tag (encode_of_decodeRecord hd).symm)

/-- Without a HALT record no step halts the core, and no step writes the program. -/
theorem State.WithoutHalt.of_step {s t : State} (h : s.WithoutHalt) (hstep : step s = .next t) : t.WithoutHalt := by
  have hhost := step_sameHostState hstep
  refine ⟨?_, fun i hi => ?_⟩
  · rw [← Bool.not_eq_true, step_halted hstep]
    exact fun ⟨o, ho⟩ => h.fetchDecode_ne_halt o ho
  · rw [State.record, hhost.prog]
    exact h.text i (hi.trans_eq hhost.plen)

/-- The outcome of a RUN whose loop ends in this state (R101): HALTED in a halted core, FAILED in a failed one and
BUDGET_EXCEEDED in one that may step. -/
inductive RunEndsAt (u : State) : RunOutcome → Prop
  | halted : u.halted = true → RunEndsAt u .halted
  | failed : u.halted = false → u.err ≠ .ok → RunEndsAt u (.failed u.err)
  | budgetExceeded : ¬ u.Terminal → RunEndsAt u .budgetExceeded

theorem runEndsAt_of_verdict {u : State} {o : RunOutcome} (h : runVerdict u = some o) : RunEndsAt u o := by
  cases hh : u.halted with
  | true =>
    cases (runVerdict_of_halted hh).symm.trans h
    exact .halted hh
  | false =>
    have he : u.err ≠ .ok := fun he => by
      cases (runVerdict_eq_none.mpr (not_terminal_iff.mpr ⟨hh, he⟩)).symm.trans h
    cases (runVerdict_of_failed hh he).symm.trans h
    exact .failed hh he

/-- The loop of RUN ends in a state with its outcome, and what every step with its count keeps still holds there. -/
theorem runLoop_ends {P : State → Prop} (hP : ∀ s t, P s → step s = .next t → P t.countStep) (left : Nat) {s : State}
    (hs : P s) : ∃ u o, P u ∧ RunEndsAt u o ∧ runLoop left s = (o, u.setRunState o.runState) := by
  induction left generalizing s with
  | zero =>
    refine ⟨s, _, hs, ?_, rfl⟩
    cases hv : runVerdict s with
    | some o => exact runEndsAt_of_verdict hv
    | none => exact .budgetExceeded (runVerdict_eq_none.mp hv)
  | succ left ih =>
    cases hv : runVerdict s with
    | some o => exact ⟨s, o, hs, runEndsAt_of_verdict hv, by simp [runLoop, hv]⟩
    | none =>
      obtain ⟨t, ht⟩ := step_next_of_not_terminal (runVerdict_eq_none.mp hv)
      have hloop : runLoop (left + 1) s = runLoop left t.countStep := by
        simp [runLoop, hv, stepState, stepCommand_of_next ht]
      rw [hloop]
      exact ih (hP s t hs ht)

/-- RUN ends as its loop does, and what the start of a RUN and every counted step keep holds there. -/
theorem command_run_ends {P : State → Prop} (hP : ∀ s t, P s → step s = .next t → P t.countStep) {budget : Nat}
    {s t : State} {o : RunOutcome} (hs : P s.beginRun) (h : command (.run budget) s = (.ran o, t)) :
    ∃ u, P u ∧ RunEndsAt u o ∧ t = u.setRunState o.runState := by
  obtain ⟨u, o', hu, hend, hloop⟩ := runLoop_ends hP budget hs
  simp only [command, run, hloop, Prod.mk.injEq, Response.ran.injEq] at h
  obtain ⟨rfl, rfl⟩ := h
  exact ⟨u, hu, hend, rfl⟩

/-- A RUN that ends BUDGET_EXCEEDED began and ended in a core that is not terminal: a terminal start takes no step, so
it is still terminal at the end. -/
theorem not_terminal_of_run_budgetExceeded {budget : Nat} {s t : State}
    (h : command (.run budget) s = (.ran .budgetExceeded, t)) : ¬ s.Terminal ∧ ¬ t.Terminal := by
  have hkeep : ∀ u v : State, (s.Terminal → u.Terminal) → step u = .next v → s.Terminal → v.countStep.Terminal :=
    fun u v hu huv hs => absurd (hu hs) (not_terminal_of_step huv)
  obtain ⟨u, hu, hend, rfl⟩ := command_run_ends hkeep id h
  cases hend with
  | budgetExceeded hn => exact ⟨mt hu hn, hn⟩

/-- A RUN of a program without HALT, from a core that has not halted, does not end HALTED: no counted step halts the
core. -/
theorem run_outcome_of_withoutHalt {budget : Nat} {s t : State} {o : RunOutcome} (hs : s.WithoutHalt)
    (h : command (.run budget) s = (.ran o, t)) : o = .budgetExceeded ∨ ∃ k, k ≠ .ok ∧ o = .failed k := by
  have hkeep : ∀ u v : State, u.WithoutHalt → step u = .next v → v.countStep.WithoutHalt := fun u v hu huv =>
    ⟨(hu.of_step huv).halted, (hu.of_step huv).text⟩
  obtain ⟨u, hu, hend, -⟩ := command_run_ends hkeep ⟨hs.halted, hs.text⟩ h
  cases hend with
  | halted hh => exact absurd hu.halted (by simp [hh])
  | failed _ he => exact .inr ⟨u.err, he, rfl⟩
  | budgetExceeded _ => exact .inl rfl

/-- Settles O41: a RUN ends BUDGET_EXCEEDED only where the core may step, and only a HALT record could halt it. -/
theorem budgetEndIsNoSuccess : Obligations.BudgetEndIsNoSuccess := by
  refine ⟨fun budget s t h => ?_, fun budget s t o hh htext h => run_outcome_of_withoutHalt ⟨hh, htext⟩ h⟩
  obtain ⟨hs, ht⟩ := not_terminal_of_run_budgetExceeded h
  obtain ⟨-, hserr⟩ := not_terminal_iff.mp hs
  obtain ⟨-, hterr⟩ := not_terminal_iff.mp ht
  exact ⟨hterr, hserr, ht⟩

end Sys2Proof.Machine

namespace Sys2Proof.Machine

/-! Reset, the loads and the empty program: the first fetch, what a LOAD writes, and the RUN whose first step errs
(70_reset_and_hazards.md R112–R114, R118). -/

/-- With `ip` 0 the fetch reads slot 0. -/
theorem fetched_of_ip_zero {s : State} (h : s.ip = 0#64) : s.fetched = s.record 0 := by
  rw [State.fetched, h]
  rfl

/-- Either LOAD command answers with a state that differs at most in the program, its length and `load_status`. -/
theorem command_load_frame {c : Command}
    (hc : (∃ instrs count, c = .loadMem instrs count) ∨ ∃ bytes ioOk, c = .loadFile bytes ioOk) (s : State) :
    ∃ m n l, command c s = (.done, { s with prog := m, plen := n, loadStatus := l }) := by
  rcases hc with ⟨instrs, count, rfl⟩ | ⟨bytes, ioOk, rfl⟩
  · obtain ⟨m, n, l, h⟩ := loadMem_frame instrs count s
    exact ⟨m, n, l, congrArg (Prod.mk _) h⟩
  · obtain ⟨m, n, l, h⟩ := loadFileAs_frame s.params.format bytes ioOk s
    exact ⟨m, n, l, congrArg (Prod.mk _) h⟩

/-- With no program every `ip` is outside it. -/
theorem fetchDecode_of_empty_program {s : State} (h : s.plen = 0) : fetchDecode s = .error .illegalInstAccess :=
  fetchDecode_of_out_of_bounds (by omega)

/-- Where the run controller has a verdict, the loop of RUN ends at once, whatever is left of the budget. -/
theorem runLoop_of_verdict {s : State} {o : RunOutcome} (h : runVerdict s = some o) (left : Nat) :
    runLoop left s = (o, s.setRunState o.runState) := by
  cases left <;> simp [runLoop, h]

/-- With budget left, the loop of RUN counts the step of a core that may step and goes on from there. -/
theorem runLoop_succ_of_step {s t : State} (h : step s = .next t) (left : Nat) :
    runLoop (left + 1) s = runLoop left t.countStep := by
  simp [runLoop, runVerdict_eq_none.mpr (not_terminal_of_step h), stepState, stepCommand_of_next h]

/-- A RUN whose first fetch errs ends FAILED with that kind after one step, whatever the rest of its budget. -/
theorem command_run_of_fetch_error {s : State} {e : ErrorKind} (hs : ¬ s.Terminal) (h : fetchDecode s = .error e)
    (left : Nat) : command (.run (left + 1)) s =
      (.ran (.failed e), { s with err := e, runState := .failed, runSteps := 1 }) := by
  have hstep : step s.beginRun = .next (s.beginRun.setErr e) := step_of_fetch_error (s := s.beginRun) hs h
  obtain ⟨hhalted, -⟩ := not_terminal_iff.mp hs
  have he : e ≠ .ok := by rcases fetchDecode_error h with ⟨-, rfl⟩ | ⟨-, rfl, -⟩ <;> decide
  have hverdict : runVerdict (s.beginRun.setErr e).countStep = some (.failed e) :=
    runVerdict_of_failed hhalted he
  simp only [command, run, runLoop_succ_of_step hstep, runLoop_of_verdict hverdict]
  rfl

/-- Settles O42: no `ip` is within an empty program, so the first fetch errs, under STEP and under RUN. -/
theorem emptyProgramFails : Obligations.EmptyProgramFails := by
  intro s hs hplen
  have hf := fetchDecode_of_empty_program hplen
  refine ⟨stepCommand_of_fetch_error hs hf, fun budget hbudget => ?_⟩
  obtain ⟨left, rfl⟩ := Nat.exists_eq_succ_of_ne_zero hbudget.ne'
  exact command_run_of_fetch_error hs hf left

/-- Settles O1: the registers are the fields of `State.resetWith`; LOAD_FILE keeps its `ip`, 0, which names slot 0. -/
theorem powerOnResetValues : Obligations.PowerOnResetValues := by
  refine fun p => ⟨rfl, rfl, rfl, rfl, rfl, rfl, rfl, rfl, rfl, rfl, rfl, fun bytes ioOk => fetched_of_ip_zero ?_⟩
  obtain ⟨m, n, l, h⟩ := command_load_frame (.inr ⟨bytes, ioOk, rfl⟩) (State.resetWith p)
  rw [h, State.resetWith_ip]

/-- Settles O2: RESET answers `s.clearExecution`, which writes none of the program, its length and `load_status`. -/
theorem resetCommandClearsExecution : Obligations.ResetCommandClearsExecution := fun s =>
  ⟨s.clearExecution, rfl, s.clearExecution_sp, s.clearExecution_ip, s.clearExecution_halted, s.clearExecution_err,
    s.clearExecution_runState, s.clearExecution_runSteps, s.clearExecution_record, s.clearExecution_plen,
    s.clearExecution_loadStatus⟩

/-- Settles O38: a LOAD writes the program, its length and `load_status` alone, and a slot is read from the stack. -/
theorem loadsKeepExecutionState : Obligations.LoadsKeepExecutionState := by
  intro c s hc
  obtain ⟨m, n, l, h⟩ := command_load_frame hc s
  exact ⟨_, h, rfl, rfl, fun _ => rfl, rfl, rfl, rfl, rfl, rfl⟩

end Sys2Proof.Machine

namespace Sys2Proof.Machine

/-! Every instruction as a test and an effect: the error it raises (R70–R88, the tests in their order), and the state it
leaves where it raises none. -/

/-- The error an instruction raises in a state, `none` where it succeeds. -/
def instrError : Instr → State → Option ErrorKind
  | .nop _, _ | .jmp _, _ | .halt _, _ => none
  | .push _, s => if s.sp < s.params.stackCapacity then none else some .stackOverflow
  | .dup k, s =>
    if k.toInt < 0 then some .illegalOperand
    else if (s.sp : Int) ≤ k.toInt then some .stackUnderflow
    else if s.sp < s.params.stackCapacity then none
    else some .stackOverflow
  | .plus _, s | .minus _, s | .mult _, s | .eq _, s => if s.sp < 2 then some .stackUnderflow else none
  | .div _, s =>
    if s.sp < 2 then some .stackUnderflow
    else if s.slot (s.sp - 1) = 0#64 then some .divByZero
    else none
  | .jmpIf _, s | .printDebug _, s => if s.sp < 1 then some .stackUnderflow else none

/-- The two entries at the top replaced by one result (R75). -/
def State.replaceTop (f : Word → Word → Word) (s : State) : State :=
  (s.setSp (s.sp - 2)).push (f (s.slot (s.sp - 2)) (s.slot (s.sp - 1)))

/-- The state an instruction leaves where it succeeds. -/
def instrEffect : Instr → State → State
  | .nop _, s => s.advance
  | .push v, s => (s.push v).advance
  | .dup k, s => (s.push (s.slot (s.sp - 1 - k.toNat))).advance
  | .plus _, s => (s.replaceTop fun a b => wrap64 (a.toInt + b.toInt)).advance
  | .minus _, s => (s.replaceTop fun a b => wrap64 (a.toInt - b.toInt)).advance
  | .mult _, s => (s.replaceTop fun a b => wrap64 (a.toInt * b.toInt)).advance
  | .div _, s => (s.replaceTop fun a b => wrap64 (tdiv a.toInt b.toInt)).advance
  | .jmp t, s => s.setIp t
  | .eq _, s => (s.replaceTop equalityWord).advance
  | .jmpIf t, s => (s.setSp (s.sp - 1)).setIp (if s.slot (s.sp - 1) = 0#64 then s.ip + 1#64 else t)
  | .halt _, s => s.setHalted
  | .printDebug _, s => ((s.setSp (s.sp - 1)).emit (s.slot (s.sp - 1))).advance

/-- What an instruction that succeeds emits (R88). -/
def instrOutput : Instr → State → List Word
  | .printDebug _, s => [s.slot (s.sp - 1)]
  | _, _ => []

/-- The instruction's meaning in this state is its test and its effect: `err` takes the error it raises, or `sp` meets
its need (R72) and the effect takes place. -/
def ErrsOrSucceeds (i : Instr) (s : State) : Prop :=
  (∃ e, instrError i s = some e ∧ exec i s = .next (s.setErr e)) ∨
    instrError i s = none ∧ spReady s.params.stackCapacity i s.sp ∧ exec i s = .next (instrEffect i s)

/-- An instruction that is a binary operation past the test of the length. -/
theorem errsOrSucceeds_of_binary {i : Instr} {f : Word → Word → Word} {s : State} (hexec : exec i s = binary f s)
    (herr : instrError i s = if s.sp < 2 then some .stackUnderflow else none)
    (hneed : spReady s.params.stackCapacity i s.sp ↔ 2 ≤ s.sp)
    (heff : instrEffect i s = (s.replaceTop f).advance) : ErrsOrSucceeds i s := by
  rcases lt_or_ge s.sp 2 with hshort | hready
  · exact .inl ⟨_, herr.trans (if_pos hshort), exec_binary_of_short hexec hshort⟩
  · exact .inr ⟨herr.trans (if_neg hready.not_gt), hneed.mpr hready,
      (hexec.trans (binary_of_ready hready f)).trans (heff ▸ rfl)⟩

theorem push_errsOrSucceeds (v : Word) (s : State) : ErrsOrSucceeds (.push v) s := by
  rcases lt_or_ge s.sp s.params.stackCapacity with hroom | hfull
  · exact .inr ⟨if_pos hroom, hroom, execPush_of_room hroom v⟩
  · exact .inl ⟨_, if_neg hfull.not_gt, execPush_of_full hfull v⟩

theorem dup_errsOrSucceeds (k : Word) (s : State) : ErrsOrSucceeds (.dup k) s := by
  rcases lt_or_ge k.toInt 0 with hneg | h0
  · exact .inl ⟨_, if_pos hneg, execDup_of_negative hneg s⟩
  rcases lt_or_ge k.toInt s.sp with hready | hshort
  · have herr : instrError (.dup k) s = if s.sp < s.params.stackCapacity then none else some .stackOverflow :=
      (if_neg h0.not_gt).trans (if_neg hready.not_ge)
    have hexec := execDup_eq_execPush h0 hready
    rcases lt_or_ge s.sp s.params.stackCapacity with hroom | hfull
    · exact .inr ⟨herr.trans (if_pos hroom), ⟨h0, hready, hroom⟩, hexec.trans (execPush_of_room hroom _)⟩
    · exact .inl ⟨_, herr.trans (if_neg hfull.not_gt), hexec.trans (execPush_of_full hfull _)⟩
  · exact .inl ⟨_, (if_neg h0.not_gt).trans (if_pos hshort), execDup_of_short h0 hshort⟩

theorem div_errsOrSucceeds (o : Word) (s : State) : ErrsOrSucceeds (.div o) s := by
  rcases lt_or_ge s.sp 2 with hshort | hready
  · exact .inl ⟨_, if_pos hshort, exec_div_of_short hshort o⟩
  by_cases htop : s.slot (s.sp - 1) = 0#64
  · exact .inl ⟨_, (if_neg hready.not_gt).trans (if_pos htop), exec_div_of_zero hready htop o⟩
  · exact errsOrSucceeds_of_binary (exec_div_of_ne_zero hready htop o) (by rw [instrError, if_neg htop]) .rfl rfl

theorem jmpIf_errsOrSucceeds (t : Word) (s : State) : ErrsOrSucceeds (.jmpIf t) s := by
  rcases lt_or_ge s.sp 1 with hshort | hready
  · exact .inl ⟨_, if_pos hshort, execJmpIf_of_short hshort t⟩
  · exact .inr ⟨if_neg hready.not_gt, hready, execJmpIf_of_ready hready t⟩

theorem printDebug_errsOrSucceeds (o : Word) (s : State) : ErrsOrSucceeds (.printDebug o) s := by
  rcases lt_or_ge s.sp 1 with hshort | hready
  · exact .inl ⟨_, if_pos hshort, execPrintDebug_of_short hshort o⟩
  · exact .inr ⟨if_neg hready.not_gt, hready, execPrintDebug_of_ready hready o⟩

/-- Every instruction is its test and its effect, in every state. -/
theorem exec_errsOrSucceeds (i : Instr) (s : State) : ErrsOrSucceeds i s := by
  cases i with
  | nop o | jmp t | halt o => exact .inr ⟨rfl, trivial, rfl⟩
  | push v => exact push_errsOrSucceeds v s
  | dup k => exact dup_errsOrSucceeds k s
  | plus o => exact errsOrSucceeds_of_binary (exec_plus o s) rfl .rfl rfl
  | minus o => exact errsOrSucceeds_of_binary (exec_minus o s) rfl .rfl rfl
  | mult o => exact errsOrSucceeds_of_binary (exec_mult o s) rfl .rfl rfl
  | div o => exact div_errsOrSucceeds o s
  | eq o => exact errsOrSucceeds_of_binary (exec_eq o s) rfl .rfl rfl
  | jmpIf t => exact jmpIf_errsOrSucceeds t s
  | printDebug o => exact printDebug_errsOrSucceeds o s

theorem exec_of_instrError {i : Instr} {s : State} {e : ErrorKind} (h : instrError i s = some e) :
    exec i s = .next (s.setErr e) := by
  obtain ⟨e', he, hx⟩ | ⟨he, -⟩ := exec_errsOrSucceeds i s
  · cases h.symm.trans he
    exact hx
  · cases h.symm.trans he

theorem exec_of_no_instrError {i : Instr} {s : State} (h : instrError i s = none) :
    exec i s = .next (instrEffect i s) := by
  obtain ⟨e, he, -⟩ | ⟨-, -, hx⟩ := exec_errsOrSucceeds i s
  · cases h.symm.trans he
  · exact hx

/-- What an instruction has done: written its error, or had its effect where it raises none. -/
theorem exec_error_or_effect {i : Instr} {s t : State} (h : exec i s = .next t) :
    (∃ e, instrError i s = some e ∧ t = s.setErr e) ∨ instrError i s = none ∧ t = instrEffect i s := by
  obtain ⟨e, he, hx⟩ | ⟨he, -, hx⟩ := exec_errsOrSucceeds i s
  · cases hx.symm.trans h
    exact .inl ⟨e, he, rfl⟩
  · cases hx.symm.trans h
    exact .inr ⟨he, rfl⟩

/-- No instruction raises `OK`. -/
theorem instrError_ne_ok (i : Instr) (s : State) : instrError i s ≠ some .ok := by
  unfold instrError
  repeat' split
  all_goals decide

/-- What a step that answers a next state has done: written an error kind, of the fetch or of the fetched instruction,
or run a fetched instruction that raises none. -/
theorem step_error_or_effect {s t : State} (h : step s = .next t) :
    (∃ e, e ≠ .ok ∧ t = s.setErr e) ∨
      ∃ i, fetchDecode s = .ok i ∧ instrError i s = none ∧ t = instrEffect i s := by
  obtain ⟨-, -, ⟨e, hne, -, rfl⟩ | ⟨i, hf, hx⟩⟩ := step_cases h
  · exact .inl ⟨e, hne, rfl⟩
  · rcases exec_error_or_effect hx with ⟨e, he, rfl⟩ | ⟨he, rfl⟩
    · exact .inl ⟨e, fun hok => instrError_ne_ok i s (hok ▸ he), rfl⟩
    · exact .inr ⟨i, hf, he, rfl⟩

@[simp] theorem instrEffect_err (i : Instr) (s : State) : (instrEffect i s).err = s.err := by
  cases i <;> rfl

/-- The output channel grows by what the instruction emits. -/
theorem instrEffect_debugOut (i : Instr) (s : State) : (instrEffect i s).debugOut = s.debugOut ++ instrOutput i s := by
  cases i with
  | printDebug o => rfl
  | _ => exact (List.append_nil _).symm

theorem instrOutput_eq_nil {i : Instr} (h : ∀ o, i ≠ .printDebug o) (s : State) : instrOutput i s = [] := by
  cases i with
  | printDebug o => exact absurd rfl (h o)
  | _ => rfl

/-! The stack pointer and the instruction pointer of an instruction that succeeds (R72, R19). -/

/-- An instruction that raises no error has the `sp` its opcode needs. -/
theorem spReady_of_no_instrError {i : Instr} {s : State} (h : instrError i s = none) :
    spReady s.params.stackCapacity i s.sp := by
  obtain ⟨e, he, -⟩ | ⟨-, hready, -⟩ := exec_errsOrSucceeds i s
  · cases h.symm.trans he
  · exact hready

/-- `sp` after an instruction that succeeds; where two entries become one, the pops do not stop at 0. -/
theorem instrEffect_sp {i : Instr} {s : State} (h : spReady s.params.stackCapacity i s.sp) :
    (instrEffect i s).sp = spAfter i s.sp := by
  cases i with
  | plus o | minus o | mult o | div o | eq o =>
    have h2 : 2 ≤ s.sp := h
    show s.sp - 2 + 1 = s.sp - 1
    omega
  | _ => rfl

/-- Settles O23: an error writes `err` alone, and the tests an instruction passes are its need of `sp`. -/
theorem stackPointerLaw : Obligations.StackPointerLaw := by
  intro i s t hok h
  rcases exec_error_or_effect h with ⟨e, he, rfl⟩ | ⟨he, rfl⟩
  · exact ⟨fun hsucc => absurd (hsucc ▸ he) (instrError_ne_ok i s), fun _ => rfl⟩
  · have hready := spReady_of_no_instrError he
    exact ⟨fun _ => ⟨hready, instrEffect_sp hready⟩, fun hfail => absurd ((instrEffect_err i s).trans hok) hfail⟩

end Sys2Proof.Machine

namespace Sys2Proof.Machine

/-! The invariant of 10_state.md R28 under each update of the state, each instruction and each command. -/

theorem State.Inv.setErr {s : State} (h : s.Inv) (hh : s.halted = false) (e : ErrorKind) : (s.setErr e).Inv :=
  { h with halted_ok := fun ht => absurd (hh.symm.trans ht) (by decide) }

theorem State.Inv.setIp {s : State} (h : s.Inv) (t : Word) : (s.setIp t).Inv := { h with }

theorem State.Inv.advance {s : State} (h : s.Inv) : s.advance.Inv := h.setIp _

theorem State.Inv.emit {s : State} (h : s.Inv) (v : Word) : (s.emit v).Inv := { h with }

theorem State.Inv.setHalted {s : State} (h : s.Inv) (he : s.err = .ok) : s.setHalted.Inv :=
  { h with halted_ok := fun _ => he }

theorem State.Inv.setSp {s : State} (h : s.Inv) {n : Nat} (hn : n ≤ s.params.stackCapacity) : (s.setSp n).Inv :=
  { h with sp_le := hn }

theorem State.Inv.push {s : State} (h : s.Inv) (hroom : s.sp < s.params.stackCapacity) (v : Word) : (s.push v).Inv :=
  { h with
    sp_le := hroom
    stack_wf := Memory.wf_write h.stack_wf s.sp v
    stack_below := Memory.below_write h.stack_below hroom v }

/-- A pop keeps the invariant. -/
theorem State.Inv.drop {s : State} (h : s.Inv) (n : Nat) : (s.setSp (s.sp - n)).Inv :=
  h.setSp ((Nat.sub_le _ _).trans h.sp_le)

/-- Two entries leave room for their result. -/
theorem State.Inv.replaceTop {s : State} (h : s.Inv) (hsp : 2 ≤ s.sp) (f : Word → Word → Word) :
    (s.replaceTop f).Inv := by
  refine (h.drop 2).push ?_ _
  have hle := h.sp_le
  simp only [State.setSp_sp, State.setSp_params]
  omega

theorem State.Inv.setLoadStatus {s : State} (h : s.Inv) (l : LoadStatus) : (s.setLoadStatus l).Inv := { h with }

theorem State.Inv.storeProgram {s : State} (h : s.Inv) {rs : List Record}
    (hlen : rs.length ≤ s.params.programCapacity) : (s.storeProgram rs).Inv :=
  { h with
    plen_le := hlen
    prog_wf := Memory.wf_writeList rs h.prog_wf 0
    prog_below := Memory.below_writeList rs h.prog_below ((Nat.zero_add _).trans_le hlen) }

theorem State.Inv.clearExecution {s : State} (h : s.Inv) : s.clearExecution.Inv :=
  { h with
    sp_le := Nat.zero_le _
    halted_ok := fun _ => rfl }

theorem State.Inv.setRunState {s : State} (h : s.Inv) (r : RunState) : (s.setRunState r).Inv := { h with }

theorem State.Inv.countStep {s : State} (h : s.Inv) : s.countStep.Inv := { h with }

theorem State.Inv.beginRun {s : State} (h : s.Inv) : s.beginRun.Inv := { h with }

theorem inv_resetWith {p : Params} (h : p.wellFormed = true) : (State.resetWith p).Inv :=
  ⟨h, Nat.zero_le _, Nat.zero_le _, fun _ => rfl, rfl, rfl, rfl, rfl⟩

/-- An instruction that succeeds keeps the invariant: what its opcode needs of `sp` is the room for what it pushes. -/
theorem State.Inv.instrEffect {s : State} {i : Instr} (h : s.Inv) (he : s.err = .ok)
    (hready : spReady s.params.stackCapacity i s.sp) : (instrEffect i s).Inv := by
  cases i with
  | nop o => exact h.advance
  | push v => exact (h.push hready v).advance
  | dup k =>
    obtain ⟨-, -, hroom⟩ := hready
    exact (h.push hroom _).advance
  | plus o | minus o | mult o | div o | eq o => exact (h.replaceTop hready _).advance
  | jmp t => exact h.setIp t
  | jmpIf t => exact (h.drop 1).setIp _
  | halt o => exact h.setHalted he
  | printDebug o => exact ((h.drop 1).emit _).advance

theorem State.Inv.of_step {s t : State} (h : s.Inv) (hstep : step s = .next t) : t.Inv := by
  obtain ⟨hh, hok⟩ := not_terminal_iff.mp (not_terminal_of_step hstep)
  obtain ⟨e, -, rfl⟩ | ⟨i, -, he, rfl⟩ := step_error_or_effect hstep
  · exact h.setErr hh e
  · exact h.instrEffect hok (spReady_of_no_instrError he)

/-- A LOAD as it acts on every state of a machine with these parameters: it stores the same records, which fit, or
rejects alike, whatever the state. -/
def LoadsAlike (p : Params) (load : State → State) : Prop :=
  (∃ l, ∀ s : State, s.params = p → load s = s.setLoadStatus l) ∨
    ∃ rs : List Record, rs.length ≤ p.programCapacity ∧
      ∀ s : State, s.params = p → load s = (s.storeProgram rs).setLoadStatus .ok

theorem loadMem_loadsAlike (instrs : List Record) (count : Nat) (p : Params) : LoadsAlike p (loadMem instrs count) := by
  rcases lt_or_ge count p.programCapacity with hroom | hfull
  · refine .inr ⟨firstRecords instrs count, (firstRecords_length _ _).trans_le hroom.le, ?_⟩
    rintro s rfl
    exact loadMem_of_room hroom instrs
  · refine .inl ⟨.rejected, ?_⟩
    rintro s rfl
    exact loadMem_of_full hfull instrs

theorem loadFileAs_loadsAlike (fmt : Format) (bytes : List Byte) (ioOk : Bool) (p : Params) :
    LoadsAlike p (loadFileAs fmt bytes ioOk) := by
  cases ioOk with
  | false => exact .inl ⟨.ioError, fun s _ => loadFileAs_of_ioError fmt bytes s⟩
  | true =>
    by_cases hfit : bytes.length % fmt.recordBytes = 0 ∧ bytes.length / fmt.recordBytes ≤ p.programCapacity
    · obtain ⟨hwhole, hcount⟩ := hfit
      refine .inr ⟨_, (recordsOfImage_length fmt _ bytes).trans_le hcount, ?_⟩
      rintro s rfl
      exact loadFileAs_of_fit hwhole hcount
    · refine .inl ⟨.rejected, ?_⟩
      rintro s rfl
      exact loadFileAs_of_unfit (by omega)

/-- LOAD_FILE uses the machine's format, which is one of the parameters. -/
theorem loadFile_loadsAlike (bytes : List Byte) (ioOk : Bool) (p : Params) : LoadsAlike p (loadFile bytes ioOk) := by
  refine (loadFileAs_loadsAlike p.format bytes ioOk p).imp ?_ ?_
  · rintro ⟨l, h⟩
    refine ⟨l, ?_⟩
    rintro s rfl
    exact h s rfl
  · rintro ⟨rs, hlen, h⟩
    refine ⟨rs, hlen, ?_⟩
    rintro s rfl
    exact h s rfl

theorem LoadsAlike.inv {s : State} {load : State → State} (hload : LoadsAlike s.params load) (h : s.Inv) :
    (load s).Inv := by
  obtain ⟨l, hl⟩ | ⟨rs, hlen, hl⟩ := hload
  · exact hl s rfl ▸ h.setLoadStatus l
  · exact hl s rfl ▸ (h.storeProgram hlen).setLoadStatus .ok

/-- RESET and a LOAD write different fields. -/
theorem LoadsAlike.clearExecution_comm {s : State} {load : State → State} (hload : LoadsAlike s.params load) :
    (load s).clearExecution = load s.clearExecution := by
  obtain ⟨l, hl⟩ | ⟨rs, -, hl⟩ := hload <;> rw [hl s rfl, hl s.clearExecution rfl] <;> rfl

/-- What the start of a RUN, every counted step and the end's `run_state` keep, RUN keeps. -/
theorem command_run_keeps {P : State → Prop} (hP : ∀ s t, P s → step s = .next t → P t.countStep)
    (hend : ∀ s r, P s → P (s.setRunState r)) {s : State} (hs : P s.beginRun) (budget : Nat) :
    P (command (.run budget) s).2 := by
  obtain ⟨u, hu, -, ht⟩ := command_run_ends hP hs (Prod.mk.eta (p := command (.run budget) s)).symm
  exact ht ▸ hend u _ hu

/-- What every step keeps, STEP keeps. -/
theorem command_step_keeps {P : State → Prop} (hP : ∀ s t, P s → step s = .next t → P t) {s : State} (hs : P s) :
    P (command .step s).2 := by
  by_cases ht : s.Terminal
  · simpa [command, stepCommand_of_terminal ht] using hs
  · obtain ⟨t, hstep⟩ := step_next_of_not_terminal ht
    simpa [command, stepCommand_of_next hstep] using hP s t hs hstep

/-- Settles O5: an error writes `err` of a core that has not halted, and the need of an opcode that succeeds is room for
what it pushes. -/
theorem stepKeepsInvariant : Obligations.StepKeepsInvariant :=
  fun _ _ h hstep => h.of_step hstep

/-- Settles O6: STEP and RUN through the step lemma, a LOAD by the number of records it stores, the rest at once. -/
theorem commandsKeepInvariant : Obligations.CommandsKeepInvariant := by
  intro c s h
  cases c with
  | reset => exact h.clearExecution
  | loadMem instrs count => exact (loadMem_loadsAlike instrs count s.params).inv h
  | loadFile bytes ioOk => exact (loadFile_loadsAlike bytes ioOk s.params).inv h
  | save instrs count => exact h
  | step => exact command_step_keeps (fun _ _ => State.Inv.of_step) h
  | run budget =>
    exact command_run_keeps (fun _ _ hs hstep => (hs.of_step hstep).countStep) (fun _ r hs => hs.setRunState r)
      h.beginRun budget
  | observe => exact h

/-- Settles O3: what a LOAD does is fixed by its arguments and the parameters, and RESET keeps those. -/
theorem resetAndLoadCommute : Obligations.ResetAndLoadCommute := fun s =>
  ⟨fun instrs count => (loadMem_loadsAlike instrs count s.params).clearExecution_comm,
    fun bytes ioOk => (loadFile_loadsAlike bytes ioOk s.params).clearExecution_comm⟩

/-- Settles O4: everything is empty, clear or 0. -/
theorem powerOnMeetsInvariant : Obligations.PowerOnMeetsInvariant := fun _ h =>
  ⟨inv_resetWith h, rfl, fun i hi => absurd hi i.not_lt_zero⟩

/-- Settles O48: the parameters are among what no step writes, and no command writes them beside its steps. -/
theorem parametersNeverChange : Obligations.ParametersNeverChange := by
  refine ⟨fun _ => rfl, rfl, fun _ _ h => (step_sameHostState h).params, fun c s => ?_⟩
  have hstep : ∀ u v : State, u.params = s.params → step u = .next v → v.params = s.params :=
    fun u v hu huv => (step_sameHostState huv).params.trans hu
  cases c with
  | reset | save instrs count | observe => rfl
  | loadMem instrs count =>
    obtain ⟨m, n, l, h⟩ := command_load_frame (.inl ⟨instrs, count, rfl⟩) s
    rw [h]
  | loadFile bytes ioOk =>
    obtain ⟨m, n, l, h⟩ := command_load_frame (.inr ⟨bytes, ioOk, rfl⟩) s
    rw [h]
  | step => exact command_step_keeps (P := fun u => u.params = s.params) hstep rfl
  | run budget => exact command_run_keeps (P := fun u => u.params = s.params) hstep (fun _ _ h => h) rfl budget

/-- Settles O47: no fetch gives HALT, so no step halts the core, and no step writes the program. -/
theorem stepKeepsWithoutHalt : Obligations.StepKeepsWithoutHalt :=
  fun _ _ h hstep => h.of_step hstep

end Sys2Proof.Machine

namespace Sys2Proof.Machine

/-! Agreement on the live state (30_encoding.md R61) under each update of the state, each instruction and the fetch. -/

theorem State.Agree.setErr {s u : State} (h : s.Agree u) (e : ErrorKind) : (s.setErr e).Agree (u.setErr e) :=
  { h with err := rfl }

theorem State.Agree.setIp {s u : State} (h : s.Agree u) {t w : Word} (htw : t = w) : (s.setIp t).Agree (u.setIp w) :=
  { h with ip := htw }

theorem State.Agree.advance {s u : State} (h : s.Agree u) : s.advance.Agree u.advance :=
  { h with ip := congrArg (· + 1#64) h.ip }

theorem State.Agree.emit {s u : State} (h : s.Agree u) (v w : Word) : (s.emit v).Agree (u.emit w) := { h with }

theorem State.Agree.setHalted {s u : State} (h : s.Agree u) : s.setHalted.Agree u.setHalted :=
  { h with halted := rfl }

/-- Where fewer slots are live, those that are still agree. -/
theorem State.Agree.drop {s u : State} (h : s.Agree u) (n : Nat) :
    (s.setSp (s.sp - n)).Agree (u.setSp (u.sp - n)) :=
  { h with
    sp := congrArg (· - n) h.sp
    live := fun i hi => h.live i (lt_of_lt_of_le hi (Nat.sub_le _ _)) }

/-- The one slot a push makes live is the slot it writes. -/
theorem State.Agree.push {s u : State} (h : s.Agree u) {v w : Word} (hvw : v = w) : (s.push v).Agree (u.push w) := by
  subst hvw
  refine { h with sp := congrArg (· + 1) h.sp, live := fun i hi => ?_ }
  rw [State.push_slot, State.push_slot, ← h.sp]
  split
  · rfl
  · next hne => exact h.live i (lt_of_le_of_ne (Nat.le_of_lt_succ hi) hne)

/-- An entry at a depth below the stack's length is live. -/
theorem State.Agree.entry {s u : State} (h : s.Agree u) {n : Nat} (hn : n < s.sp) :
    s.slot (s.sp - 1 - n) = u.slot (u.sp - 1 - n) :=
  h.sp ▸ h.live _ (by omega)

theorem State.Agree.top {s u : State} (h : s.Agree u) (hsp : 1 ≤ s.sp) : s.slot (s.sp - 1) = u.slot (u.sp - 1) :=
  h.entry hsp

theorem State.Agree.replaceTop {s u : State} (h : s.Agree u) (hsp : 2 ≤ s.sp) (f : Word → Word → Word) :
    (s.replaceTop f).Agree (u.replaceTop f) :=
  (h.drop 2).push (congrArg₂ f (h.entry hsp) (h.top (by omega)))

/-- The tests of an instruction read `sp`, STACK_CAPACITY and, for DIV with two entries, the top. -/
theorem State.Agree.instrError_eq {s u : State} (h : s.Agree u) (i : Instr) : instrError i s = instrError i u := by
  cases i with
  | div o =>
    by_cases hsp : s.sp < 2
    · simp [instrError, ← h.sp, hsp]
    · rw [instrError, instrError, h.top (by omega), h.sp]
  | _ => simp only [instrError, h.sp, h.params]

/-- An instruction that succeeds reads live entries alone. -/
theorem State.Agree.instrEffect {s u : State} {i : Instr} (h : s.Agree u)
    (hready : spReady s.params.stackCapacity i s.sp) : (instrEffect i s).Agree (instrEffect i u) := by
  cases i with
  | nop o => exact h.advance
  | push v => exact (h.push rfl).advance
  | dup k =>
    obtain ⟨h0, hdepth, -⟩ := hready
    have hk := depthOperand_toNat h0
    rw [depthOperand] at hk
    exact (h.push (h.entry (by omega))).advance
  | plus o | minus o | mult o | div o | eq o => exact (h.replaceTop hready _).advance
  | jmp t => exact h.setIp rfl
  | jmpIf t => exact (h.drop 1).setIp (by rw [h.top hready, h.ip])
  | halt o => exact h.setHalted
  | printDebug o => exact ((h.drop 1).emit _ _).advance

theorem State.Agree.instrOutput_eq {s u : State} {i : Instr} (h : s.Agree u)
    (hready : spReady s.params.stackCapacity i s.sp) : instrOutput i s = instrOutput i u := by
  cases i with
  | printDebug o => exact congrArg (fun v => [v]) (h.top hready)
  | _ => rfl

/-- The fetch reads `ip`, PLEN and a record below PLEN. -/
theorem State.Agree.fetchDecode_eq {s u : State} (h : s.Agree u) : fetchDecode s = fetchDecode u := by
  have hb : u.ipInBounds = s.ipInBounds := by rw [State.ipInBounds, State.ipInBounds, h.ip, h.plen]
  by_cases hin : s.ipInBounds = true
  · obtain ⟨hlo, hhi⟩ := ipInBounds_iff.mp hin
    have hrec : u.fetched = s.fetched := by
      rw [State.fetched, State.fetched, ← h.ip, h.text _ (by omega)]
    rw [fetchDecode, fetchDecode, hb, hrec]
  · rw [fetchDecode, fetchDecode, hb, if_neg hin, if_neg hin]

theorem State.Agree.terminal_iff {s u : State} (h : s.Agree u) : s.Terminal ↔ u.Terminal := by
  rw [State.Terminal, State.Terminal, h.halted, h.err]

/-- The stop in a terminal state is fixed by `halted` and `err`. -/
theorem State.Agree.step_eq_of_terminal {s u : State} (h : s.Agree u) (hs : s.Terminal) : step u = step s := by
  cases hh : s.halted with
  | true => rw [step_of_halted hh, step_of_halted (h.halted.symm.trans hh)]
  | false =>
    have he : s.err ≠ .ok := hs.resolve_left (by simp [hh])
    rw [step_of_failed hh he, step_of_failed (h.halted.symm.trans hh) (h.err ▸ he), h.err]

/-- The outcomes of two steps that go on alike: the states answered agree and have emitted the same Words. -/
def NextAlike (s u : State) (a b : Outcome) : Prop :=
  ∃ t v, a = .next t ∧ b = .next v ∧ t.Agree v ∧
    ∃ out, t.debugOut = s.debugOut ++ out ∧ v.debugOut = u.debugOut ++ out

theorem State.Agree.nextAlike_setErr {s u : State} (h : s.Agree u) (e : ErrorKind) :
    NextAlike s u (.next (s.setErr e)) (.next (u.setErr e)) :=
  ⟨_, _, rfl, rfl, h.setErr e, [], (List.append_nil _).symm, (List.append_nil _).symm⟩

theorem State.Agree.exec_nextAlike {s u : State} (h : s.Agree u) (i : Instr) :
    NextAlike s u (exec i s) (exec i u) := by
  obtain ⟨e, he, hx⟩ | ⟨he, hready, hx⟩ := exec_errsOrSucceeds i s
  · rw [hx, exec_of_instrError ((h.instrError_eq i).symm.trans he)]
    exact h.nextAlike_setErr e
  · rw [hx, exec_of_no_instrError ((h.instrError_eq i).symm.trans he)]
    refine ⟨_, _, rfl, rfl, h.instrEffect hready, instrOutput i s, instrEffect_debugOut i s, ?_⟩
    rw [h.instrOutput_eq hready]
    exact instrEffect_debugOut i u

theorem State.Agree.step_nextAlike {s u : State} (h : s.Agree u) (hs : ¬ s.Terminal) :
    NextAlike s u (step s) (step u) := by
  have hu : ¬ u.Terminal := mt h.terminal_iff.mpr hs
  cases hf : fetchDecode s with
  | error e =>
    rw [step_of_fetch_error hs hf, step_of_fetch_error hu (h.fetchDecode_eq.symm.trans hf)]
    exact h.nextAlike_setErr e
  | ok i =>
    rw [step_of_fetched hs hf, step_of_fetched hu (h.fetchDecode_eq.symm.trans hf)]
    exact h.exec_nextAlike i

/-- Settles O28: the fetch, the tests and the effects read the live state alone, and so does the terminal test. -/
theorem stepSeesOnlyLiveState : Obligations.StepSeesOnlyLiveState := by
  intro s u h
  by_cases hs : s.Terminal
  · have hstop := h.step_eq_of_terminal hs
    exact ⟨fun t ht => absurd ht (step_ne_next_of_terminal hs t), fun _ => hstop.trans, fun _ => hstop.trans⟩
  · obtain ⟨t, v, ht, hv, hagree, hout⟩ := h.step_nextAlike hs
    refine ⟨fun t' ht' => ?_, fun f hf => ?_, fun r hr => ?_⟩
    · cases ht.symm.trans ht'
      exact ⟨v, hv, hagree, hout⟩
    · cases ht.symm.trans hf
    · cases ht.symm.trans hr

/-! The frame of a step, the output channel and the movement of `ip`. -/

/-- No slot of the stack changes but the one at the new top. -/
theorem exec_slot {i : Instr} {s t : State} (h : exec i s = .next t) {j : Nat} (hj : j + 1 ≠ t.sp) :
    t.slot j = s.slot j := by
  rcases exec_cases h with ⟨-, -, rfl⟩ | ⟨-, -, rfl | ⟨-, rfl⟩⟩ | ⟨-, -, ⟨e, -, rfl⟩ | hdata⟩
  · rfl
  · rfl
  · rfl
  · rfl
  · exact hdata.slots j hj

/-- Settles O24: an error writes `err` alone, and an instruction writes no slot but the one at its new top. -/
theorem stepFrame : Obligations.StepFrame := by
  refine fun s t h => ⟨step_sameHostState h, fun j hj => ?_⟩
  obtain ⟨-, -, ⟨e, -, -, rfl⟩ | ⟨i, -, hx⟩⟩ := step_cases h
  · rfl
  · exact exec_slot hx hj

/-- Settles O21: `exec` answers a next state for every instruction, and an error of the fetch is a next state too. -/
theorem stepAnswersUnlessTerminal : Obligations.StepAnswersUnlessTerminal := fun _ =>
  ⟨step_next_of_not_terminal, fun ⟨_, h⟩ => not_terminal_of_step h⟩

/-- Every command but STEP and RUN leaves the output channel. -/
theorem command_debugOut {c : Command} (hstep : c ≠ .step) (hrun : ∀ b, c ≠ .run b) (s : State) :
    (command c s).2.debugOut = s.debugOut := by
  cases c with
  | reset | save instrs count | observe => rfl
  | loadMem instrs count =>
    obtain ⟨m, n, l, h⟩ := command_load_frame (.inl ⟨instrs, count, rfl⟩) s
    rw [h]
  | loadFile bytes ioOk =>
    obtain ⟨m, n, l, h⟩ := command_load_frame (.inr ⟨bytes, ioOk, rfl⟩) s
    rw [h]
  | step => exact absurd rfl hstep
  | run budget => exact absurd rfl (hrun budget)

/-- Settles O27: an error leaves the channel, and of the effects that of PRINT_DEBUG alone appends to it. -/
theorem outputOnlyByPrintDebug : Obligations.OutputOnlyByPrintDebug := by
  refine ⟨fun s t h => ?_, fun c s hstep hrun => command_debugOut hstep hrun s⟩
  obtain ⟨-, hok⟩ := not_terminal_iff.mp (not_terminal_of_step h)
  obtain ⟨e, he, rfl⟩ | ⟨i, hf, -, rfl⟩ := step_error_or_effect h
  · exact .inr ⟨.inr he, rfl⟩
  · by_cases hi : ∃ o, i = .printDebug o
    · obtain ⟨o, rfl⟩ := hi
      exact .inl ⟨⟨o, hf⟩, hok, rfl⟩
    · refine .inr ⟨.inl fun o ho => hi ⟨o, ?_⟩, ?_⟩
      · rwa [hf, Except.ok.injEq] at ho
      · rw [instrEffect_debugOut, instrOutput_eq_nil (not_exists.mp hi), List.append_nil]

/-- An instruction that succeeds and is not HALT moves `ip` on by one or to its own operand. -/
theorem instrEffect_ip {i : Instr} (hi : ∀ o, i ≠ .halt o) (s : State) :
    (instrEffect i s).ip = s.ip + 1#64 ∨ i = .jmp (instrEffect i s).ip ∨ i = .jmpIf (instrEffect i s).ip := by
  cases i with
  | halt o => exact absurd rfl (hi o)
  | jmp t => exact .inr (.inl rfl)
  | jmpIf t =>
    by_cases htop : s.slot (s.sp - 1) = 0#64
    · exact .inl (if_pos htop)
    · exact .inr (.inr (congrArg Instr.jmpIf (if_neg htop).symm))
  | _ => exact .inl rfl

/-- Below `2^63 - 1` the increment of a Word does not wrap. -/
theorem toInt_add_one {w : Word} {n : Nat} (hw : w.toInt < n) (hn : n < 2 ^ 63) : (w + 1#64).toInt = w.toInt + 1 := by
  have hlo := BitVec.le_toInt w
  rw [BitVec.toInt_add, BitVec.toInt_one (by decide), Int.bmod_eq_of_le] <;> norm_num at hlo hn ⊢ <;> omega

/-- Settles O44: an instruction was fetched below PLEN, so `ip + 1` is at most PLEN and does not wrap. -/
theorem ipAdvance : Obligations.IpAdvance := by
  intro s t hcap hinv h
  obtain ⟨-, hok⟩ := not_terminal_iff.mp (not_terminal_of_step h)
  have hhalt := step_halted h
  obtain ⟨e, he, rfl⟩ | ⟨i, hf, -, rfl⟩ := step_error_or_effect h
  · exact ⟨fun _ => rfl, fun hok' => absurd hok' he⟩
  by_cases hi : ∃ o, i = .halt o
  · obtain ⟨o, rfl⟩ := hi
    exact ⟨fun _ => rfl, fun _ hh => absurd (hhalt.mpr ⟨o, hf⟩) (by simp [hh])⟩
  refine ⟨fun hend => ?_, fun _ _ => ?_⟩
  · rcases hend with he | hh
    · exact absurd ((instrEffect_err i s).trans hok) he
    · obtain ⟨o, ho⟩ := hhalt.mp hh
      exact absurd ⟨o, Except.ok.inj (hf.symm.trans ho)⟩ hi
  · rcases instrEffect_ip (not_exists.mp hi) s with hip | hjmp | hjmpIf
    · obtain ⟨hb, -⟩ := fetchDecode_ok.mp hf
      obtain ⟨-, hlt⟩ := ipInBounds_iff.mp hb
      have hle := hinv.plen_le
      have hnext : (instrEffect i s).ip.toInt = s.ip.toInt + 1 := by
        rw [hip, toInt_add_one hlt (hle.trans_lt hcap)]
      exact .inl ⟨hnext, by omega⟩
    · exact .inr (.inl (hf.trans (congrArg _ hjmp)))
    · exact .inr (.inr (hf.trans (congrArg _ hjmpIf)))

end Sys2Proof.Machine

namespace Sys2Proof

/-! Instructions at the head of a byte string, and instruction words (30_encoding.md R51, R52). -/

/-- A byte string that begins with an instruction's bytes is read as that instruction. -/
theorem decodeBytes_bytes_append (fmt : Format) (i : Instr) (rest : List Byte) :
    decodeBytes fmt (i.bytes fmt ++ rest) = .ok (i, rest) := by
  have hlen : (i.bytes fmt).length = fmt.recordBytes := i.encode.bytes_length fmt
  have hrec : Record.ofBytes fmt (i.bytes fmt ++ rest) = i.encode :=
    i.encode.ofBytes_bytes fmt (i.encode_fits fmt) rest
  have hlong : ¬ (i.bytes fmt ++ rest).length < fmt.recordBytes := by simp [hlen]
  simp only [decodeBytes, if_neg hlong, hrec, decodeRecord_encode, List.drop_left' hlen]

theorem decodeTableWord_eq_some {nbits w : Nat} {i : Instr} :
    decodeTableWord nbits w = some i ↔ i.encode = recordOfTableWord nbits w := by
  rw [← decodeRecord_eq_ok, decodeTableWord]
  split <;> simp [*]

/-- Two records are equal where both fields are equal as numbers. -/
theorem Record.eq_iff_toNat {r q : Record} :
    r = q ↔ r.tag.toNat = q.tag.toNat ∧ r.operand.toNat = q.operand.toNat := by
  cases r; cases q
  simp [BitVec.toNat_inj]

/-- The record of a 128-bit word: the tag in the low 64 bits, the operand in the high 64. -/
theorem recordOfTableWord_toNat {w : Nat} (h : w < 2 ^ 128) :
    (recordOfTableWord 128 w).tag.toNat = w % 2 ^ 64 ∧ (recordOfTableWord 128 w).operand.toNat = w / 2 ^ 64 := by
  rw [recordOfTableWord, Nat.mod_eq_of_lt h]
  simp only [Record.ofIW, TagBytes.count, BitVec.toNat_ofNat]
  norm_num at h ⊢
  omega

end Sys2Proof

namespace Sys2Proof.Machine

/-- Settles O29: the bytes hold the instruction's record, which decodes to the instruction. -/
theorem decodeEncodeAgree : Obligations.DecodeEncodeAgree :=
  fun fmt i rest _ => decodeBytes_bytes_append fmt i rest

/-- Settles O31: the word's two halves are the record, and one record alone decodes to the instruction. -/
theorem tableWordHasOneMeaning : Obligations.TableWordHasOneMeaning := by
  intro w i hw
  obtain ⟨htag, hoperand⟩ := recordOfTableWord_toNat hw
  rw [decodeTableWord_eq_some, Record.eq_iff_toNat, htag, hoperand]
  have := i.encode.tag.isLt
  omega

/-- Settles O32: the decoder computes on the bytes written out, and a tag's opcode takes any operand. -/
theorem sampleRecordsDecode : Obligations.SampleRecordsDecode :=
  ⟨rfl, rfl, rfl, rfl, rfl, rfl, fun o => ⟨decodeRecord_encode (.nop o), decodeRecord_encode (.dup o)⟩⟩

/-- The spec's formula for `wrap64` (00_scope.md §5). -/
theorem toInt_wrap64 (n : Int) : (wrap64 n).toInt = (n + 2 ^ 63) % 2 ^ 64 - 2 ^ 63 := by
  rw [wrap64, BitVec.toInt_ofInt, Int.bmod_def]
  norm_num
  omega

/-- Settles O15: a Word is its signed value, which lies in one period of the modulus. -/
theorem wrapLaw : Obligations.WrapLaw := by
  refine fun n => ⟨toInt_wrap64 n, fun w ⟨q, hq⟩ => BitVec.eq_of_toInt_eq ?_⟩
  have hlo := BitVec.le_toInt w
  have hhi := BitVec.toInt_lt (x := w)
  rw [toInt_wrap64]
  norm_num at hlo hhi hq ⊢
  omega

/-- Settles O17: the fetch gives the instruction at `ip`, and the step runs what the fetch gives. -/
theorem stepRunsDecodedInstruction : Obligations.StepRunsDecodedInstruction := fun _ _ hs hlo hhi hd _ =>
  step_of_fetched hs (fetchDecode_ok.mpr ⟨ipInBounds_iff.mpr ⟨hlo, hhi⟩, hd⟩)

/-- Settles O46: `halted` is tested first, then `err`. -/
theorem terminalStopsByName : Obligations.TerminalStopsByName := fun _ => ⟨step_of_halted, step_of_failed⟩

/-! RUN as repeated STEP: the controller's registers take no part in a step (60_exceptions.md R101). -/

/-- The state with these values in the controller's two registers. -/
def State.withRun (r : RunState) (n : Nat) (s : State) : State := { s with runState := r, runSteps := n }

theorem instrError_withRun (i : Instr) (r : RunState) (n : Nat) (s : State) :
    instrError i (s.withRun r n) = instrError i s := by
  cases i <;> rfl

theorem instrEffect_withRun (i : Instr) (r : RunState) (n : Nat) (s : State) :
    instrEffect i (s.withRun r n) = (instrEffect i s).withRun r n := by
  cases i <;> rfl

theorem exec_withRun {i : Instr} {s t : State} (h : exec i s = .next t) (r : RunState) (n : Nat) :
    exec i (s.withRun r n) = .next (t.withRun r n) := by
  obtain ⟨e, he, rfl⟩ | ⟨he, rfl⟩ := exec_error_or_effect h
  · exact exec_of_instrError ((instrError_withRun i r n s).trans he)
  · rw [exec_of_no_instrError ((instrError_withRun i r n s).trans he), instrEffect_withRun]

/-- A step neither reads nor writes the controller's registers. -/
theorem step_withRun {s t : State} (h : step s = .next t) (r : RunState) (n : Nat) :
    step (s.withRun r n) = .next (t.withRun r n) := by
  have hs : ¬ (s.withRun r n).Terminal := fun ht => not_terminal_of_step h ht
  obtain ⟨-, -, ⟨e, -, hf, rfl⟩ | ⟨i, hf, hx⟩⟩ := step_cases h
  · exact step_of_fetch_error hs hf
  · exact (step_of_fetched hs hf).trans (exec_withRun hx r n)

/-- A run of several steps that reaches a state begins with a step. -/
theorem step_of_core_run_succ {k : Nat} {s u : State} (h : Host.Core.run Sys2Proof.core (k + 1) s = .next u) :
    ∃ t, step s = .next t ∧ Host.Core.run Sys2Proof.core k t = .next u := by
  have hcore : Sys2Proof.core.step s = step s := rfl
  cases hstep : step s with
  | next t => exact ⟨t, rfl, (core_run_succ_of_step hstep k).symm.trans h⟩
  | fault f => simp [Host.Core.run, hcore, hstep] at h
  | refused r => simp [Host.Core.run, hcore, hstep] at h

/-- The loop of RUN counts the step of a core that may step and goes on from there. -/
theorem runLoop_withRun_of_step {s t : State} (h : step s = .next t) (left n : Nat) :
    runLoop (left + 1) (s.withRun .running n) = runLoop left (t.withRun .running (n + 1)) :=
  runLoop_succ_of_step (step_withRun h .running n) left

/-- The loop of RUN is that many steps of the core, of which it has the count and the outcome. -/
theorem runLoop_eq_core_run (left : Nat) (s : State) :
    ∃ (k : Nat) (u : State) (o : RunOutcome), Host.Core.run Sys2Proof.core k s = .next u ∧ k ≤ left ∧ RunEndsAt u o ∧
      (o = .budgetExceeded → k = left) ∧
      ∀ n, runLoop left (s.withRun .running n) = (o, u.withRun o.runState (n + k)) := by
  induction left generalizing s with
  | zero =>
    refine ⟨0, s, (runVerdict s).getD .budgetExceeded, rfl, le_rfl, ?_, fun _ => rfl, fun n => rfl⟩
    cases hv : runVerdict s with
    | some o => exact runEndsAt_of_verdict hv
    | none => exact .budgetExceeded (runVerdict_eq_none.mp hv)
  | succ left ih =>
    by_cases hs : s.Terminal
    · obtain ⟨o, ho⟩ := Option.ne_none_iff_exists'.mp fun h => runVerdict_eq_none.mp h hs
      have hend := runEndsAt_of_verdict ho
      refine ⟨0, s, o, rfl, Nat.zero_le _, hend, ?_, fun n => runLoop_of_verdict (s := s.withRun .running n) ho _⟩
      rintro rfl
      cases hend with | budgetExceeded hn => exact absurd hs hn
    · obtain ⟨t, hstep⟩ := step_next_of_not_terminal hs
      obtain ⟨k, u, o, hrun, hk, hend, hbudget, hloop⟩ := ih t
      refine ⟨k + 1, u, o, (core_run_succ_of_step hstep k).trans hrun, Nat.succ_le_succ hk, hend,
        fun ho => congrArg _ (hbudget ho), fun n => ?_⟩
      rw [runLoop_withRun_of_step hstep, hloop, Nat.add_assoc, Nat.add_comm 1]

/-- Steps the core has taken are counted from the budget. -/
theorem runLoop_add_of_core_run {m : Nat} {s u : State} (h : Host.Core.run Sys2Proof.core m s = .next u) (left n : Nat) :
    runLoop (m + left) (s.withRun .running n) = runLoop left (u.withRun .running (n + m)) := by
  induction m generalizing s n with
  | zero =>
    cases h
    rw [Nat.zero_add, Nat.add_zero]
  | succ m ih =>
    obtain ⟨t, hstep, hrun⟩ := step_of_core_run_succ h
    rw [Nat.succ_add, runLoop_withRun_of_step hstep, ih hrun, Nat.add_assoc, Nat.add_comm 1]

/-- RUN answers what its loop ends with, from the core's state with the controller's registers at their start. -/
theorem command_run_of_runLoop {budget : Nat} {s u : State} {o : RunOutcome}
    (h : runLoop budget (s.withRun .running 0) = (o, u)) (r : RunState) (n : Nat) :
    command (.run budget) (s.withRun r n) = (.ran o, u) :=
  congrArg (fun p => (Response.ran p.1, p.2)) h

/-- Settles O39: the loop is repeated STEP with the controller's registers beside it, and its end fixes the outcome. -/
theorem runIsRepeatedStep : Obligations.RunIsRepeatedStep := by
  intro budget s
  obtain ⟨k, u, o, hrun, hk, hend, hbudget, hloop⟩ := runLoop_eq_core_run budget s
  have hcmd := command_run_of_runLoop (hloop 0) s.runState s.runSteps
  rw [Nat.zero_add] at hcmd
  refine ⟨o, _, u, hcmd, hrun, rfl, hk, ?_, ?_, ?_⟩
  · rintro rfl
    cases hend with | halted hh => exact ⟨hh, rfl⟩
  · rintro e rfl
    cases hend with | failed hh he => exact ⟨hh, rfl, he, rfl⟩
  · rintro rfl
    cases hend with | budgetExceeded hn =>
    obtain ⟨hh, he⟩ := not_terminal_iff.mp hn
    exact ⟨hh, he, hbudget rfl, rfl⟩

/-- Settles O40: the loop with both budgets reaches the state the first RUN ended in, and from there on it and the
second RUN differ in the count alone. -/
theorem runContinuesAfterBudget : Obligations.RunContinuesAfterBudget := by
  intro m n s t h
  obtain ⟨k, u, o, hrun, -, -, hbudget, hloop⟩ := runLoop_eq_core_run m s
  obtain ⟨ho, ht⟩ := Prod.mk.inj ((command_run_of_runLoop (hloop 0) s.runState s.runSteps).symm.trans h)
  cases Response.ran.inj ho
  cases hbudget rfl
  obtain ⟨j, v, o, -, -, -, -, hrest⟩ := runLoop_eq_core_run n u
  have hsecond : command (.run n) t = (.ran o, v.withRun o.runState (0 + j)) :=
    ht ▸ command_run_of_runLoop (hrest 0) _ _
  have hboth : command (.run (m + n)) s = (.ran o, v.withRun o.runState (0 + m + j)) :=
    command_run_of_runLoop ((runLoop_add_of_core_run hrun n 0).trans (hrest (0 + m))) s.runState s.runSteps
  rw [hsecond, hboth, Nat.zero_add, Nat.zero_add]
  exact ⟨rfl, rfl⟩

end Sys2Proof.Machine
